-- ==== Sys2Proof/Word.lean ====
section
/-!
DEFINITION. The words of the Greaseweazle protocol engine: spec/00_scope.md R7 has unsigned integers of 8, 16
and 32 bits and no signed value.
-/

namespace Sys2Proof

/-- A byte of a stream, or a `u8` register (R7). -/
abbrev Byte := BitVec 8

/-- A `u16` field (R7). -/
abbrev U16 := BitVec 16

/-- A `u32` register or field (R7). -/
abbrev U32 := BitVec 32

end Sys2Proof
end

