-- ==== Sys2Proof/Syntax.lean ====
section
/-!
DEFINITION. The instruction set: one constructor for each row of spec/opcode_table.json.

Three wires carry instructions (spec/30_encoding.md R103): command packets on the receive stream, flux tokens on the
receive stream of a write stream, and 32-bit values on the control channel. `Wire` says which wire, and what is on it.
Operands are kept as the bytes the packet or token holds: whether a value is legal is the handler's check (R93, R127),
so no byte of an operand is lost by decoding.
-/

namespace Sys2Proof

/-- The instructions of the block, in the order of spec/opcode_table.json. -/
inductive Instr where
  /-- CMD_GET_INFO, `00 03 idx` (R150). -/
  | getInfo (idx : Byte)
  /-- RESERVED_01: a whole packet of the reserved opcode 1; `body` is what follows its length byte (R189). -/
  | reserved01 (body : List Byte)
  /-- CMD_SEEK, `02 03 cyl` (R165). -/
  | seek (cyl : Byte)
  /-- CMD_SIDE, `03 03 side` (R167). -/
  | side (side : Byte)
  /-- CMD_SET_PARAMS, `04 L idx data…` with `L = 3 + nr` (R154). -/
  | setParams (idx : Byte) (data : List Byte)
  /-- CMD_GET_PARAMS, `05 04 idx nr` (R152). -/
  | getParams (idx nr : Byte)
  /-- CMD_MOTOR, `06 04 drive on` (R169). -/
  | motor (drive on : Byte)
  /-- CMD_READ_FLUX, `07 03 nr_idx`, or `07 02` without its optional field (R225). -/
  | readFlux (nrIdx : Option Byte)
  /-- CMD_WRITE_FLUX, `08 03 tai`, or `08 02` without its optional field (R235). -/
  | writeFlux (tai : Option Byte)
  /-- CMD_GET_FLUX_STATUS, `09 02` (R156). -/
  | getFluxStatus
  /-- CMD_GET_INDEX_TIMES, `0A 04 first nr` (R158). -/
  | getIndexTimes (first nr : Byte)
  /-- CMD_SWITCH_FW_MODE, `0B 03 mode` (R187). -/
  | switchFwMode (mode : Byte)
  /-- CMD_SELECT, `0C 03 drive` (R172). -/
  | select (drive : Byte)
  /-- CMD_DESELECT, `0D 02` (R174). -/
  | deselect
  /-- CMD_SET_BUS_TYPE, `0E 03 type` (R176). -/
  | setBusType (type : Byte)
  /-- CMD_SET_PIN, `0F 04 pin level` (R178). -/
  | setPin (pin level : Byte)
  /-- CMD_RESET, `10 02` (R185). -/
  | reset
  /-- CMD_ERASE_FLUX, `11 06 t0 t1 t2 t3` (R250). -/
  | eraseFlux (ticks : U32)
  /-- CMD_SOURCE_BYTES, `12 06 n0 n1 n2 n3` (R260). -/
  | sourceBytes (nrBytes : U32)
  /-- CMD_SINK_BYTES, `13 06 n0 n1 n2 n3` (R265). -/
  | sinkBytes (nrBytes : U32)
  /-- UNKNOWN_14_17: a whole packet of an opcode 20 to 23 (R125). -/
  | unknown14to17 (op : Byte) (body : List Byte)
  /-- UNKNOWN_18_1F: a whole packet of an opcode 24 to 31 (R125). -/
  | unknown18to1F (op : Byte) (body : List Byte)
  /-- UNKNOWN_20_3F: a whole packet of an opcode 32 to 63 (R125). -/
  | unknown20to3F (op : Byte) (body : List Byte)
  /-- UNKNOWN_40_7F: a whole packet of an opcode 64 to 127 (R125). -/
  | unknown40to7F (op : Byte) (body : List Byte)
  /-- UNKNOWN_80_FF: a whole packet of an opcode 128 to 255 (R125). -/
  | unknown80toFF (op : Byte) (body : List Byte)
  /-- BAD_LENGTH_00_01: two header bytes whose length byte is 0 or 1 (R124). -/
  | badLength (op len : Byte)
  /-- FLUX_EOS: the stream terminator `00` (R195, R203). -/
  | fluxEos
  /-- FLUX_SHORT: a one-byte interval `01` to `F9` (R196). -/
  | fluxShort (b : Byte)
  /-- FLUX_MED: a two-byte interval; `b1 = 00` is its malformed form (R196, R207, R211). -/
  | fluxMed (b0 b1 : Byte)
  /-- FLUXOP_INDEX: `FF 01` and its argument bytes, up to the first even one (R198, R209). -/
  | fluxIndex (arg : List Byte)
  /-- FLUXOP_LONG: `FF 02` and its argument bytes, up to the first even one (R198, R209). -/
  | fluxLong (arg : List Byte)
  /-- FLUXOP_RESERVED: `FF` followed by any byte but `01` and `02` (R208). -/
  | fluxReserved (op : Byte)
  /-- CTRL_NORMAL: a control-channel write of any value but 10000 (R275). -/
  | ctrlNormal (v : U32)
  /-- CTRL_CLEAR_COMMS: a control-channel write of 10000 (R275). -/
  | ctrlClearComms
  deriving DecidableEq, Repr

/-- What carries an instruction, and the bits on it (R103). -/
inductive Wire where
  /-- A command packet: its bytes, opcode first (R90). -/
  | packet (bytes : List Byte)
  /-- A flux token of a write stream: its bytes (R195). -/
  | token (bytes : List Byte)
  /-- A write of the control channel (R11). -/
  | ctrl (v : U32)
  deriving DecidableEq, Repr

/-- The two flux opcodes after the escape byte (R102, R198). -/
inductive FluxOp where
  /-- `01`, an index marker. -/
  | index
  /-- `02`, a long interval. -/
  | long
  deriving DecidableEq, Repr, Inhabited

/-- The decoder phase `T.dec` (spec/10_state.md R40). -/
inductive DecPhase where
  /-- At a token boundary. -/
  | tok
  /-- The first byte of a two-byte interval has been seen. -/
  | med (b0 : Byte)
  /-- The escape byte `FF` has been seen. -/
  | esc
  /-- `k` bytes of the argument of `op` have been seen; `acc` is the value they add up to. -/
  | arg (op : FluxOp) (k acc : Nat)
  deriving DecidableEq, Repr, Inhabited

end Sys2Proof
end

