-- ==== Sys2Proof/Config.lean ====
section
/-!
DEFINITION. The configuration `CFG` of spec/00_scope.md R5, its reference values (R6), and the free values of the
model: what the environment draws (R8, R12, R14, R262) and what the spec leaves unspecified (R37 to R40, U16).

`CFG` is an argument of the model: a state carries its configuration in the field `cfg`, which no step writes, so a
statement about every state is a statement about every configuration. The free values are opaque constants: nothing
can be proved of their values.
-/

namespace Sys2Proof

/-- The parameters of R5 that an implementation chooses. `MAX_CMD` and `TICK_MAX` have one legal value each and are
the constants `maxCmd` and `tickMax`. -/
structure Config where
  /-- `FW_MAJOR`. -/
  fwMajor : Byte
  /-- `FW_MINOR`. -/
  fwMinor : Byte
  /-- `MAX_INDEX`, 1 to 63. -/
  maxIndex : Byte
  /-- `SAMPLE_FREQ`, ticks per second, above 0. -/
  sampleFreq : U32
  /-- `HW_TYPE`. -/
  hwType : U16
  /-- `MAX_UNIT`, 0 to 254: the largest selectable unit id. -/
  maxUnit : Byte
  /-- `PINS`, a finite set of pin ids, as a list without repeats. -/
  pins : List Byte
  /-- `PIN_RESET_LEVEL`. -/
  pinResetLevel : Bool
  /-- `DELAY_RESET`, ten bytes. -/
  delayReset : List Byte
  deriving DecidableEq, Repr

/-- `MAX_CMD`, whose only legal value is 19 (R5, R99). -/
abbrev maxCmd : Byte := 19

/-- `TICK_MAX`, whose only legal value is 2^28 − 1 (R5, R201). -/
abbrev tickMax : Nat := 268435455

/-- `CFG_REF` (R6), under which the test vectors of spec/95_test_vectors.md run. -/
def Config.ref : Config where
  fwMajor := 0
  fwMinor := 15
  maxIndex := 15
  sampleFreq := 72000000
  hwType := 1
  maxUnit := 2
  pins := [2]
  pinResetLevel := true
  delayReset := [0x0A, 0x00, 0x88, 0x13, 0x0F, 0x00, 0xEE, 0x02, 0x10, 0x27]

/-- The eleven acknowledgement codes (spec/60_exceptions.md R290). -/
inductive AckCode where
  | okay | badCommand | noIndex | noTrk0 | fluxOverflow | fluxUnderflow | wrprot | noUnit | noBus | badUnit | badPin
  deriving DecidableEq, Repr, Inhabited

/-- The answer of `act_seek` (R12). -/
inductive SeekResult where
  /-- `SEEK_OK`. -/
  | ok
  /-- `SEEK_NO_TRK0`. -/
  | noTrk0
  deriving DecidableEq, Repr, Inhabited

/-- The stream registers `T.*` (spec/10_state.md R37 to R40). -/
structure Stream where
  /-- `T.rd_target`: the `nr_idx` of the read (R37). -/
  rdTarget : Byte
  /-- `T.rd_seen`: index pulses seen so far (R37). -/
  rdSeen : Byte
  /-- `T.rd_cum`: ticks from capture start to the last captured edge, modulo 2^32 (R37). -/
  rdCum : U32
  /-- `T.wr_tai`: the `terminate_at_index` of the write (R38). -/
  wrTai : Bool
  /-- `T.wr_result`: the status the write will complete with (R38). -/
  wrResult : AckCode
  /-- `T.xfer_left`: bytes still to move in `SRC` or `SINK` (R39). -/
  xferLeft : U32
  /-- `T.xfer_bytes`: bytes moved so far, modulo 2^32 (R39). -/
  xferBytes : U32
  /-- `T.dec`: the decoder phase (R40). -/
  dec : DecPhase
  deriving DecidableEq, Repr, Inhabited

/-- The answer of the `n`-th `act_seek` for which the state's environment lists none (R12, U12). -/
opaque Config.freeSeek : Nat → SeekResult

/-- The answer of the `n`-th `act_wrprot` for which the state's environment lists none (R12, U13). -/
opaque Config.freeWrprot : Nat → Bool

/-- The microseconds of the `n`-th sample for which the state's environment lists none (R14, U11). -/
opaque Config.freeUsecs : Nat → U32

/-- The `n`-th filler byte for which the state's environment lists none (R262, U10). -/
opaque Config.freeFiller : Nat → Byte

/-- What the stream registers hold once their stream is destroyed (R37 to R40, U16): nothing is known of it. -/
opaque Config.deadStream : Nat → Stream

end Sys2Proof
end

