-- ==== Sys2Proof/WellFormed.lean ====
section
/-!
DEFINITION. Which instructions, decoder phases and configurations are well formed: the instructions that some bits on
a wire encode (spec/30_encoding.md R90 to R92, R100; spec/44_flux_codec.md R195 to R198), the phases of
spec/10_state.md R40, and the constraints of spec/00_scope.md R5.
-/

namespace Sys2Proof

/-- The bytes after a packet's length byte: a length byte is at most 255, so at most 253 of them (R90). -/
def packetBodyOk (body : List Byte) : Bool := decide (body.length ≤ 253)

/-- The argument bytes of an escape token, `n` of them before: the token ends at the first even byte, or at the
fourth byte (R209). -/
def fluxArgOk (n : Nat) : List Byte → Bool
  | [] => false
  | [b] => decide (b.toNat % 2 = 0 ∧ n < 4) || decide (n = 3)
  | b :: c :: rest => decide (b.toNat % 2 = 1 ∧ n < 3) && fluxArgOk (n + 1) (c :: rest)

/-- Some bits encode the instruction. -/
def Instr.wf : Instr → Bool
  | .getInfo _ => true
  | .reserved01 body => packetBodyOk body
  | .seek _ => true
  | .side _ => true
  | .setParams _ data => decide (data.length ≤ 252)
  | .getParams _ _ => true
  | .motor _ _ => true
  | .readFlux _ => true
  | .writeFlux _ => true
  | .getFluxStatus => true
  | .getIndexTimes _ _ => true
  | .switchFwMode _ => true
  | .select _ => true
  | .deselect => true
  | .setBusType _ => true
  | .setPin _ _ => true
  | .reset => true
  | .eraseFlux _ => true
  | .sourceBytes _ => true
  | .sinkBytes _ => true
  | .unknown14to17 op body => decide (20 ≤ op.toNat ∧ op.toNat ≤ 23) && packetBodyOk body
  | .unknown18to1F op body => decide (24 ≤ op.toNat ∧ op.toNat ≤ 31) && packetBodyOk body
  | .unknown20to3F op body => decide (32 ≤ op.toNat ∧ op.toNat ≤ 63) && packetBodyOk body
  | .unknown40to7F op body => decide (64 ≤ op.toNat ∧ op.toNat ≤ 127) && packetBodyOk body
  | .unknown80toFF op body => decide (128 ≤ op.toNat) && packetBodyOk body
  | .badLength _ len => decide (len.toNat < 2)
  | .fluxEos => true
  | .fluxShort b => decide (1 ≤ b.toNat ∧ b.toNat ≤ 249)
  | .fluxMed b0 _ => decide (250 ≤ b0.toNat ∧ b0.toNat ≤ 254)
  | .fluxIndex arg => fluxArgOk 0 arg
  | .fluxLong arg => fluxArgOk 0 arg
  | .fluxReserved op => decide (op ≠ 1 ∧ op ≠ 2)
  | .ctrlNormal v => decide (v ≠ 10000)
  | .ctrlClearComms => true

/-- The phases R40 lists: `b0` in 250 to 254, `k` at most 3, `acc` the value of `k` groups of 7 bits. -/
def DecPhase.wf : DecPhase → Bool
  | .tok => true
  | .med b0 => decide (250 ≤ b0.toNat ∧ b0.toNat ≤ 254)
  | .esc => true
  | .arg _ k acc => decide (k ≤ 3 ∧ acc < 128 ^ k)

/-- The constraints of R5. -/
def Config.wf (c : Config) : Bool :=
  decide (1 ≤ c.maxIndex.toNat ∧ c.maxIndex.toNat ≤ 63) && decide (c.maxUnit.toNat ≤ 254) &&
  decide (c.sampleFreq ≠ 0) && decide c.pins.Nodup && decide (c.delayReset.length = 10)

end Sys2Proof
end

