-- ==== Sys2Proof/Decode.lean ====
section
/-!
DEFINITION. Decoding, total on any bits, and the encoder after it.

Packets: the opcode map and layouts of spec/30_encoding.md R90 to R100. Flux tokens: the ladder, the packing N28 and
the decoder of spec/44_flux_codec.md R195 to R211. Control values: spec/47_control_channel.md R275. At the end the
encoder, the engine's interval encoder `enc` (R200), and the reading of a word of spec/opcode_table.json.
-/

namespace Sys2Proof

/-! ### Integers and bytes (R7, R63) -/

/-- `le16(v)`, least significant byte first (R7). -/
def le16 (v : U16) : List Byte := [v.setWidth 8, (v >>> 8).setWidth 8]

/-- `le32(v)`, least significant byte first (R7). -/
def le32 (v : U32) : List Byte :=
  [v.setWidth 8, (v >>> 8).setWidth 8, (v >>> 16).setWidth 8, (v >>> 24).setWidth 8]

/-- `rd32` of four bytes, least significant first (R7). -/
def rd32 (b0 b1 b2 b3 : Byte) : U32 := b3 ++ b2 ++ b1 ++ b0

/-- The byte of a number below 256. -/
def byteOf (n : Nat) : Byte := BitVec.ofNat 8 n

/-! ### Command packets (R90 to R100) -/

/-- Why some bits on a wire encode no instruction. -/
inductive DecodeReject where
  /-- Fewer than two bytes, or not as many as the length byte declares: no packet is complete (R123). -/
  | incompletePacket
  /-- A known opcode whose length is outside `explen` (R126). -/
  | illegalLength (op : Byte)
  /-- The bytes of a token end before the token does (R195). -/
  | incompleteToken
  /-- More bytes than one instruction has. -/
  | trailingBytes
  deriving DecidableEq, Repr

/-- What a decoder answers: the instruction, or a rejection by name. -/
inductive Decoded where
  | ok (i : Instr)
  | rejected (why : DecodeReject)
  deriving DecidableEq, Repr

/-- The instruction, where there is one. -/
def Decoded.toOption : Decoded → Option Instr
  | .ok i => some i
  | .rejected _ => none

/-- Format `F0`: no field (R91). -/
def formatF0 (i : Instr) : List Byte → Option Instr
  | [] => some i
  | _ => none

/-- Format `F1`: one u8 field at offset 2 (R91). -/
def formatF1 (mk : Byte → Instr) : List Byte → Option Instr
  | [a] => some (mk a)
  | _ => none

/-- Format `F2`: u8 fields at offsets 2 and 3 (R91). -/
def formatF2 (mk : Byte → Byte → Instr) : List Byte → Option Instr
  | [a, b] => some (mk a b)
  | _ => none

/-- Format `F4`: one little-endian u32 field at offsets 2 to 5 (R91, R93 (b)). -/
def formatF4 (mk : U32 → Instr) : List Byte → Option Instr
  | [a, b, c, d] => some (mk (rd32 a b c d))
  | _ => none

/-- Format `FO`: an optional u8 field at offset 2 (R91, R93 (d)). -/
def formatFO (mk : Option Byte → Instr) : List Byte → Option Instr
  | [] => some (mk none)
  | [a] => some (mk (some a))
  | _ => none

/-- Format `FV`: a u8 field at offset 2 and data bytes from offset 3 (R91, R93 (c)). -/
def formatFV (mk : Byte → List Byte → Instr) : List Byte → Option Instr
  | [] => none
  | a :: data => some (mk a data)

/-- The opcode map with each command's format (R92, R99): `none` for an opcode that is not `known`. -/
def commandFormat : Nat → Option (List Byte → Option Instr)
  | 0 => some (formatF1 .getInfo)
  | 2 => some (formatF1 .seek)
  | 3 => some (formatF1 .side)
  | 4 => some (formatFV .setParams)
  | 5 => some (formatF2 .getParams)
  | 6 => some (formatF2 .motor)
  | 7 => some (formatFO .readFlux)
  | 8 => some (formatFO .writeFlux)
  | 9 => some (formatF0 .getFluxStatus)
  | 10 => some (formatF2 .getIndexTimes)
  | 11 => some (formatF1 .switchFwMode)
  | 12 => some (formatF1 .select)
  | 13 => some (formatF0 .deselect)
  | 14 => some (formatF1 .setBusType)
  | 15 => some (formatF2 .setPin)
  | 16 => some (formatF0 .reset)
  | 17 => some (formatF4 .eraseFlux)
  | 18 => some (formatF4 .sourceBytes)
  | 19 => some (formatF4 .sinkBytes)
  | _ => none

/-- The row of a packet whose opcode is not known: `RESERVED_01` or one of the `UNKNOWN` rows (R100, R103). -/
def illegalRow (op : Byte) (body : List Byte) : Instr :=
  if op.toNat < 20 then .reserved01 body
  else if op.toNat < 24 then .unknown14to17 op body
  else if op.toNat < 32 then .unknown18to1F op body
  else if op.toNat < 64 then .unknown20to3F op body
  else if op.toNat < 128 then .unknown40to7F op body
  else .unknown80toFF op body

/-- The instruction of a whole packet. A length byte below 2 is judged first (R100 (c)), then that the packet is
complete (R123), then the opcode (R125), then the length (R126). -/
def decodePacket : List Byte → Decoded
  | op :: len :: body =>
    if len.toNat < 2 then
      if body = [] then .ok (.badLength op len) else .rejected .trailingBytes
    else if body.length + 2 ≠ len.toNat then
      .rejected .incompletePacket
    else
      match commandFormat op.toNat with
      | none => .ok (illegalRow op body)
      | some format =>
        match format body with
        | some i => .ok i
        | none => .rejected (.illegalLength op)
  | _ => .rejected .incompletePacket

/-- `known(op)` (R99): 0 and 2 to 19. -/
def known (op : Byte) : Bool := decide (op.toNat = 0 ∨ (2 ≤ op.toNat ∧ op.toNat ≤ 19))

/-- `explen(op)` (R92): the lengths of a known opcode that the dispatcher accepts, written from the table's own
column and not from the formats. -/
def explen (op : Byte) (len : Nat) : Bool :=
  match op.toNat with
  | 4 => decide (3 ≤ len ∧ len ≤ 255)
  | 7 | 8 => decide (len = 2 ∨ len = 3)
  | 9 | 13 | 16 => decide (len = 2)
  | 0 | 2 | 3 | 11 | 12 | 14 => decide (len = 3)
  | 5 | 6 | 10 | 15 => decide (len = 4)
  | 17 | 18 | 19 => decide (len = 6)
  | _ => false

/-! ### Flux tokens (R195 to R211) -/

/-- The interval of the two-byte rung (R196, R207). -/
def medTicks (b0 b1 : Byte) : Nat := 250 + (b0.toNat - 250) * 255 + (b1.toNat - 1)

/-- N28: an integer below 2^28 as four odd bytes of 7 bits each, least significant group first (R197). -/
def n28 (n : Nat) : List Byte :=
  [byteOf (1 + 2 * (n % 128)), byteOf (1 + 2 * (n / 128 % 128)), byteOf (1 + 2 * (n / 16384 % 128)),
   byteOf (1 + 2 * (n / 2097152 % 128))]

/-- The integer of N28 bytes: bits 7:1 of each, least significant group first (R197). -/
def un28 : List Byte → Nat
  | [] => 0
  | b :: rest => b.toNat / 2 + 128 * un28 rest

/-- What the decoder yields for a byte (R205). -/
inductive Yield where
  /-- `NONE`: the token is not complete. -/
  | none
  /-- `INTERVAL(t)`. -/
  | interval (t : Nat)
  /-- `INDEX(d)`. -/
  | index (d : Nat)
  /-- `END`: the terminator at a token boundary. -/
  | eos
  /-- `BAD(b)`: malformed, with the offending byte. -/
  | bad (b : Byte)
  deriving DecidableEq, Repr

/-- `dec_step(T.dec, b)`: the next phase and what the decoder yields (R206 to R209). A phase that no rule assigns
(after `END` and `BAD`) stays as it is. -/
def decStep : DecPhase → Byte → DecPhase × Yield
  | .tok, b =>
    if b = 0 then (.tok, .eos)
    else if b.toNat ≤ 249 then (.tok, .interval b.toNat)
    else if b.toNat ≤ 254 then (.med b, .none)
    else (.esc, .none)
  | .med b0, b => if b = 0 then (.med b0, .bad b) else (.tok, .interval (medTicks b0 b))
  | .esc, b =>
    if b = 1 then (.arg .index 0 0, .none)
    else if b = 2 then (.arg .long 0 0, .none)
    else (.esc, .bad b)
  | .arg op k acc, b =>
    if b.toNat % 2 = 0 then (.arg op k acc, .bad b)
    else
      let acc' := acc + 128 ^ k * (b.toNat / 2)
      if k < 3 then (.arg op (k + 1) acc', .none)
      else
        match op with
        | .index => (.tok, .index acc')
        | .long => if acc' = 0 then (.tok, .bad b) else (.tok, .interval acc')

/-- The instruction of an escape token with its argument bytes. -/
def fluxOpInstr : FluxOp → List Byte → Instr
  | .index, arg => .fluxIndex arg
  | .long, arg => .fluxLong arg

/-- The instruction that byte `b` completes in a phase, well formed or malformed; `none` where the decoder yields
`NONE`. The earlier argument bytes are those of their value (R197). -/
def decToken : DecPhase → Byte → Option Instr
  | .tok, b => if b = 0 then some .fluxEos else if b.toNat ≤ 249 then some (.fluxShort b) else none
  | .med b0, b => some (.fluxMed b0 b)
  | .esc, b => if b = 1 ∨ b = 2 then none else some (.fluxReserved b)
  | .arg op k acc, b =>
    if b.toNat % 2 = 0 ∨ 3 ≤ k then some (fluxOpInstr op ((n28 acc).take k ++ [b])) else none

/-- The first token of a byte sequence, from a phase, and the bytes after it. -/
def decodeToken : DecPhase → List Byte → Option (Instr × List Byte)
  | _, [] => none
  | p, b :: rest =>
    match decToken p b with
    | some i => some (i, rest)
    | none => decodeToken (decStep p b).1 rest

/-- The phase in which the first token's last byte arrives, the bytes before it, and that byte. -/
def splitToken : DecPhase → List Byte → Option (DecPhase × Byte)
  | _, [] => none
  | p, b :: rest =>
    match decToken p b with
    | some _ => some (p, b)
    | none => splitToken (decStep p b).1 rest

/-- What the decoder yields over a byte sequence, the `NONE`s left out, up to the first `END` or `BAD` (R205). -/
def decodeStream : DecPhase → List Byte → List Yield
  | _, [] => []
  | p, b :: rest =>
    match (decStep p b).2 with
    | .none => decodeStream (decStep p b).1 rest
    | .eos => [.eos]
    | .bad c => [.bad c]
    | y => y :: decodeStream (decStep p b).1 rest

/-! ### All wires -/

/-- The instruction of a control-channel write: 10000 acts, every other value is `NORMAL` (R275). -/
def decodeCtrl (v : U32) : Instr := if v = 10000 then .ctrlClearComms else .ctrlNormal v

/-- The instruction that some bits on a wire encode, or the rejection by name. -/
def decode : Wire → Decoded
  | .packet bytes => decodePacket bytes
  | .token bytes =>
    match decodeToken .tok bytes with
    | some (i, []) => .ok i
    | some (_, _ :: _) => .rejected .trailingBytes
    | none => .rejected .incompleteToken
  | .ctrl v => .ok (decodeCtrl v)

/-! ### Encoding -/

/-- A packet: the opcode, the length of the whole packet, the fields (R90). -/
def packetOf (op : Byte) (fields : List Byte) : Wire := .packet (op :: byteOf (fields.length + 2) :: fields)

/-- The bits of an instruction (R92, R195 to R198, R275). -/
def encode : Instr → Wire
  | .getInfo idx => packetOf 0 [idx]
  | .reserved01 body => packetOf 1 body
  | .seek cyl => packetOf 2 [cyl]
  | .side sd => packetOf 3 [sd]
  | .setParams idx data => packetOf 4 (idx :: data)
  | .getParams idx nr => packetOf 5 [idx, nr]
  | .motor drive on => packetOf 6 [drive, on]
  | .readFlux nrIdx => packetOf 7 nrIdx.toList
  | .writeFlux tai => packetOf 8 tai.toList
  | .getFluxStatus => packetOf 9 []
  | .getIndexTimes first nr => packetOf 10 [first, nr]
  | .switchFwMode mode => packetOf 11 [mode]
  | .select drive => packetOf 12 [drive]
  | .deselect => packetOf 13 []
  | .setBusType type => packetOf 14 [type]
  | .setPin pin level => packetOf 15 [pin, level]
  | .reset => packetOf 16 []
  | .eraseFlux ticks => packetOf 17 (le32 ticks)
  | .sourceBytes n => packetOf 18 (le32 n)
  | .sinkBytes n => packetOf 19 (le32 n)
  | .unknown14to17 op body => packetOf op body
  | .unknown18to1F op body => packetOf op body
  | .unknown20to3F op body => packetOf op body
  | .unknown40to7F op body => packetOf op body
  | .unknown80toFF op body => packetOf op body
  | .badLength op len => .packet [op, len]
  | .fluxEos => .token [0x00]
  | .fluxShort b => .token [b]
  | .fluxMed b0 b1 => .token [b0, b1]
  | .fluxIndex arg => .token (0xFF :: 0x01 :: arg)
  | .fluxLong arg => .token (0xFF :: 0x02 :: arg)
  | .fluxReserved op => .token [0xFF, op]
  | .ctrlNormal v => .ctrl v
  | .ctrlClearComms => .ctrl 10000

/-- `enc(t)`, the canonical encoding of an interval `1 ≤ t ≤ TICK_MAX` (R200). -/
def enc (t : Nat) : List Byte :=
  if t ≤ 249 then [byteOf t]
  else if t ≤ 1524 then [byteOf (250 + (t - 250) / 255), byteOf (1 + (t - 250) % 255)]
  else 0xFF :: 0x02 :: n28 t

/-- `enc_index(d)`, `0 ≤ d ≤ TICK_MAX` (R202). -/
def encIndex (d : Nat) : List Byte := 0xFF :: 0x01 :: n28 d

/-! ### The words of spec/opcode_table.json

R103: a command row is a 16-bit header word `H = 256·P[0] + P[1]`, opcode byte in bits 15:8; a token row is the token's
first byte, or its first two in wire order; a control row is the 32-bit value. -/

/-- The bits that a word of the table stands for, every bit above its `nbits` 0 (log entry 12): 32 bits are a
control value; 8 bits a token's first byte; 16 bits a token's first two bytes where the first is the escape byte
`FF`, and a packet's header otherwise. -/
def tableWire (nbits w : Nat) : Option Wire :=
  let hi := byteOf (w / 256 % 256)
  let lo := byteOf (w % 256)
  if nbits = 32 then some (.ctrl (BitVec.ofNat 32 w))
  else if nbits = 8 then some (.token [lo, 0, 0, 0, 0, 0])
  else if nbits = 16 then
    if hi = 0xFF then some (.token [hi, lo, 0, 0, 0, 0])
    else some (.packet (hi :: lo :: List.replicate (lo.toNat - 2) 0))
  else none

/-- The instruction the decoder reads from a word of the table; of a token's bytes, the first token. -/
def decodeTableWord (nbits w : Nat) : Option Instr :=
  match tableWire nbits w with
  | some (.token bytes) => (decodeToken .tok bytes).map Prod.fst
  | some wire => (decode wire).toOption
  | none => none

end Sys2Proof
end

