-- ==== Sys2Proof/Machine/State.lean ====
section
/-!
DEFINITION. The state of the block and of what acts on it (spec/10_state.md; spec/00_scope.md R9 to R14), power-on
reset, and the ways a step can stop.

The groups are the spec's own: `S.*` is `Device`, `F.*` is `Framer`, `T.*` is `Stream` (declared in Config.lean, which
gives it a free value), and `RXQ`, `TX`, `ACT` (R41) are in `Env`, with what the environment will do next.
-/

namespace Sys2Proof.Machine

/-- `S.bus_type` (R21). Its two bits hold 0, 1 or 2, never 3. -/
inductive BusType where
  /-- 0, `BUS_NONE`. -/
  | none
  /-- 1, `BUS_IBMPC`. -/
  | ibmpc
  /-- 2, `BUS_SHUGART`. -/
  | shugart
  deriving DecidableEq, Repr

/-- The firmware mode of CMD_SWITCH_FW_MODE (R102, R187). -/
inductive FwMode where
  /-- 0, `FW_MODE_BOOTLOADER`. -/
  | bootloader
  /-- 1, `FW_MODE_NORMAL`. -/
  | normal
  deriving DecidableEq, Repr

/-- One level register `S.pin[p]` (R27). -/
structure PinReg where
  id : Byte
  level : Bool
  deriving DecidableEq, Repr

/-- One extremum of BandwidthStats (R34). -/
structure BwPair where
  bytes : U32
  usecs : U32
  deriving DecidableEq, Repr

/-- The device registers `S.*` (R21 to R34). The registers with an index are lists: `motor`, `cyl`, `side` hold one
entry for each unit `0..MAX_UNIT`, `idxTime` one for each `0..MAX_INDEX−1`, `pin` one for each pin of `PINS`. -/
structure Device where
  /-- `S.bus_type` (R21). -/
  busType : BusType
  /-- `S.sel`: the selected unit, if any (R22). -/
  sel : Option Byte
  /-- `S.motor[u]` (R24). -/
  motor : List Bool
  /-- `S.cyl[u]` (R25). -/
  cyl : List Byte
  /-- `S.side[u]` (R26). -/
  side : List Bool
  /-- `S.pin[p]` (R27). -/
  pin : List PinReg
  /-- `S.delay[0..9]`, the block `gw_delay` (R28). -/
  delay : List Byte
  /-- `S.flux_status` (R29). -/
  fluxStatus : AckCode
  /-- `S.cap_valid` (R30). -/
  capValid : Bool
  /-- `S.clear_pending` (R31). -/
  clearPending : Bool
  /-- `S.idx_time[i]` (R33). -/
  idxTime : List U32
  /-- `S.bw_min` (R34). -/
  bwMin : BwPair
  /-- `S.bw_max` (R34). -/
  bwMax : BwPair
  deriving DecidableEq, Repr

/-- `F.mode` (R36). -/
inductive Mode where
  /-- `IDLE`: waiting for or accumulating a packet. -/
  | idle
  /-- `RD_STREAM`: a read stream is in progress. -/
  | rdStream
  /-- `WR_STREAM`: a write stream is decoded and played. -/
  | wrStream
  /-- `WR_DRAIN`: an ended write stream's bytes are discarded up to the terminator. -/
  | wrDrain
  /-- `WR_TAIL`: a terminated write stream waits for the index pulse. -/
  | wrTail
  /-- `SRC`: a CMD_SOURCE_BYTES transfer is in progress. -/
  | src
  /-- `SINK`: a CMD_SINK_BYTES transfer is in progress. -/
  | sink
  deriving DecidableEq, Repr

/-- The framer registers `F.*` (R35, R36). -/
structure Framer where
  /-- `F.mode` (R36). -/
  mode : Mode
  /-- `F.rx_cnt`, 0 to 255 (R35). -/
  rxCnt : Nat
  /-- `F.cbuf[0..254]` (R35). -/
  cbuf : List Byte
  deriving DecidableEq, Repr

/-- One element of the trace `TX` (R10): a byte, or a marker that is not a byte. -/
inductive TxItem where
  | byte (b : Byte)
  /-- The marker of `tp_flush()`. -/
  | flush
  /-- The marker of `tp_reset()`. -/
  | reset
  deriving DecidableEq, Repr

/-- One actuation call in the trace `ACT` (R12). -/
inductive ActCall where
  | bus (t : BusType)
  | select (u : Byte)
  | deselect
  | motor (u : Byte) (on : Bool)
  | side (s : Bool)
  | pin (p : Byte) (level : Bool)
  | seek (u fromCyl toCyl : Byte)
  | wrprot
  | erase (ticks : U32)
  | captureStart
  | captureStop
  | playStart (tai : Bool)
  | play (t : Nat)
  | playEnd
  | playStop
  | fwMode (m : FwMode)
  | resetDefaults
  deriving DecidableEq, Repr

/-- An event that the actuation collaborator raises (R13). -/
inductive Event where
  /-- `EV_EDGE(t)`: a flux transition `t` ticks after the one before. -/
  | edge (t : Nat)
  /-- `EV_INDEX(d)`: an index pulse `d` ticks after the last captured edge. -/
  | index (d : Nat)
  /-- `EV_OVERRUN`. -/
  | overrun
  /-- `EV_NO_INDEX`. -/
  | noIndex
  /-- `EV_UNDERRUN`. -/
  | underrun
  deriving DecidableEq, Repr

/-- Whose turn it is (R9): the engine's own step, or a step of one of the three agents of the environment. -/
inductive Turn where
  /-- The engine takes a step of kind (a), (b) or (c). -/
  | engine
  /-- The host appends a byte to `RXQ`. -/
  | hostByte (b : Byte)
  /-- The host removes the `n` oldest bytes of `TX` it has not taken yet. -/
  | hostTake (n : Nat)
  /-- `ctrl_write(v)` (R11). -/
  | ctrl (v : U32)
  /-- The collaborator raises an event (R13): an engine step of kind (d). -/
  | event (e : Event)
  /-- Power-on reset (R50). -/
  | powerOn
  deriving DecidableEq, Repr

/-- The values that the environment will answer draws with (R8, R12, R14, R262), oldest first. Where a list is empty
the draw is the free value of Config.lean. -/
structure Answers where
  /-- Answers of `act_seek`. -/
  seek : List SeekResult
  /-- Answers of `act_wrprot`: true is write-protected. -/
  wrprot : List Bool
  /-- Microseconds of the transfers to come. -/
  usecs : List U32
  /-- Filler bytes of CMD_SOURCE_BYTES. -/
  filler : List Byte
  deriving DecidableEq, Repr

/-- What the model keeps beside the block (R41): the streams and traces of the interfaces, and the environment's
choices. -/
structure Env where
  /-- `RXQ`, oldest byte first (R10). -/
  rxq : List Byte
  /-- The trace `TX`, oldest item first (R10). -/
  tx : List TxItem
  /-- The bytes of `TX` the host has not taken yet, which `tp_reset()` discards (R10). -/
  txPending : List Byte
  /-- The trace `ACT`, oldest call first (R12). -/
  act : List ActCall
  /-- The turns to come; where the list is empty it is the engine's turn (R9). -/
  sched : List Turn
  /-- The answers to come. -/
  answers : Answers
  /-- How many free values have been used. -/
  draws : Nat
  deriving DecidableEq, Repr

/-- The machine's whole state. -/
structure State where
  /-- `CFG` (R5) and with it DeviceInfo (R20): no step writes it. -/
  cfg : Config
  /-- `S.*`. -/
  dev : Device
  /-- `F.*`. -/
  frm : Framer
  /-- `T.*`. -/
  strm : Stream
  /-- `RXQ`, `TX`, `ACT` and the environment's choices. -/
  env : Env
  deriving DecidableEq, Repr

/-- Why a step stops with a fault: there is no such reason, since "Nothing in this layer is fatal to the process"
(R305; part 1 of spec/93_implementation_defined.md has no `fault`). -/
inductive Fault where
  deriving DecidableEq, Repr

/-- Why a step is refused. -/
inductive Refusal where
  /-- Raised by an arm of `exec` whose instruction has no meaning yet; safe, since the model then claims nothing.
  Every instruction has its meaning, so no arm raises it. -/
  | notModelled (mnemonic : String)
  deriving DecidableEq, Repr

/-- The device registers after power-on reset under a configuration (R50). -/
def Device.por (c : Config) : Device where
  busType := .none
  sel := none
  motor := List.replicate (c.maxUnit.toNat + 1) false
  cyl := List.replicate (c.maxUnit.toNat + 1) 0
  side := List.replicate (c.maxUnit.toNat + 1) false
  pin := c.pins.map fun p => ⟨p, c.pinResetLevel⟩
  delay := c.delayReset
  fluxStatus := .okay
  capValid := false
  clearPending := false
  idxTime := List.replicate c.maxIndex.toNat 0
  bwMin := ⟨0, 0⟩
  bwMax := ⟨0, 0⟩

/-- The framer after power-on reset (R50). DESIGN CHOICE (log entry 1): R35 gives `cbuf` no reset value; it is 255
zero bytes here. -/
def Framer.por : Framer where
  mode := .idle
  rxCnt := 0
  cbuf := List.replicate 255 0

/-- The stream registers after power-on reset. DESIGN CHOICE (log entry 2): R50 leaves them unspecified; they are zero,
`OKAY` and `TOK` here. -/
def Stream.por : Stream where
  rdTarget := 0
  rdSeen := 0
  rdCum := 0
  wrTai := false
  wrResult := .okay
  xferLeft := 0
  xferBytes := 0
  dec := .tok

/-- The environment at power-on reset: `RXQ` empty, `TX` and `ACT` empty traces (R41). DESIGN CHOICE (log entry 3):
no turn and no answer is listed. -/
def Env.por : Env where
  rxq := []
  tx := []
  txPending := []
  act := []
  sched := []
  answers := ⟨[], [], [], []⟩
  draws := 0

/-- The machine right after power-on reset under a configuration (R50). -/
def State.por (c : Config) : State where
  cfg := c
  dev := Device.por c
  frm := Framer.por
  strm := Stream.por
  env := Env.por

/-- The machine right after power-on reset under the reference configuration `CFG_REF` (R6, R50; log entry 4). -/
def State.reset : State := State.por Config.ref

end Sys2Proof.Machine
end

