-- ==== Sys2Proof/Machine/Operands.lean ====
section
/-!
DEFINITION. How the operands of an instruction are read from its fields (spec/30_encoding.md R93, R102), and the
arguments of escape tokens (spec/44_flux_codec.md R197, R209). A byte outside an enumeration reads as `none`, and the
handler refuses it.
-/

namespace Sys2Proof.Machine

/-- A boolean field is true iff its byte is not 0 (R93 (e)). -/
def boolOf (b : Byte) : Bool := decide (b ≠ 0)

/-- The bus type of a `type` field (R102). -/
def busTypeOf (b : Byte) : Option BusType :=
  if b = 0 then some .none else if b = 1 then some .ibmpc else if b = 2 then some .shugart else none

/-- The firmware mode of a `mode` field (R102). -/
def fwModeOf (b : Byte) : Option FwMode :=
  if b = 0 then some .bootloader else if b = 1 then some .normal else none

/-- The side of a `side` field (R102). -/
def sideOf (b : Byte) : Option Bool :=
  if b = 0 then some false else if b = 1 then some true else none

/-- `nr_idx`, 2 where the packet has no such field (R93 (d)). -/
def nrIdxOf (field : Option Byte) : Byte := field.getD 2

/-- `terminate_at_index`, false where the packet has no such field (R93 (d), (e)). -/
def taiOf (field : Option Byte) : Bool := boolOf (field.getD 0)

/-- The value of an escape token's argument: `none` where an even byte cut it short (R209). -/
def fluxArg (arg : List Byte) : Option Nat :=
  if arg.length = 4 ∧ (arg.getLastD 0).toNat % 2 = 1 then some (un28 arg) else none

/-- The byte the decoder reports of a malformed escape token: its last (R209). -/
def fluxArgByte (arg : List Byte) : Byte := arg.getLastD 0

/-- The named fields of the delay block, little-endian u16 (R28, R64): `k` is the field's offset, 0 `select_delay`,
2 `step_delay`, 4 `seek_settle`, 6 `motor_delay`, 8 `auto_off`. The engine never interprets them. -/
def delayField (d : Device) (k : Nat) : U16 := d.delay.getD (k + 1) 0 ++ d.delay.getD k 0

end Sys2Proof.Machine
end

