-- ==== Sys2Proof/Machine/Flags.lean ====
section
/-!
DEFINITION. The status registers and flags, all of them (spec/10_state.md R29 to R32): `flux_status`, `cap_valid` and
`clear_pending`. There are no arithmetic condition codes (R32). Also the numbers of the acknowledgement codes
(spec/60_exceptions.md R290), which `flux_status` holds and which the leading ack carries.
-/

namespace Sys2Proof

/-- The byte of an acknowledgement code (R290). -/
def AckCode.toByte : AckCode → Byte
  | .okay => 0x00
  | .badCommand => 0x01
  | .noIndex => 0x02
  | .noTrk0 => 0x03
  | .fluxOverflow => 0x04
  | .fluxUnderflow => 0x05
  | .wrprot => 0x06
  | .noUnit => 0x07
  | .noBus => 0x08
  | .badUnit => 0x09
  | .badPin => 0x0A

end Sys2Proof

namespace Sys2Proof.Machine

/-- `S.flux_status <- c` (R29). -/
def State.setFluxStatus (c : AckCode) (s : State) : State := { s with dev := { s.dev with fluxStatus := c } }

/-- `S.cap_valid <- v` (R30). -/
def State.setCapValid (v : Bool) (s : State) : State := { s with dev := { s.dev with capValid := v } }

/-- `S.clear_pending <- v` (R31). -/
def State.setClearPending (v : Bool) (s : State) : State := { s with dev := { s.dev with clearPending := v } }

end Sys2Proof.Machine
end

