-- ==== Sys2Proof/Machine/Ops.lean ====
section
/-!
DEFINITION. The named operations every meaning is written over: the transport (spec/00_scope.md R8, R10), actuation
calls and draws (R12, R14), the index spaces (spec/20_memory.md R62), resets of register groups (spec/10_state.md
R51), the bandwidth statistics (spec/46_throughput.md R263), the ends of commands and streams, the entry of a refusal
(R8, spec/60_exceptions.md R297, R301) and the entry of `CLEAR_COMMS` (spec/47_control_channel.md R277, R302). There
is no return from either entry (R303).
-/

namespace Sys2Proof.Machine

/-! ### Transport (R8, R10) -/

/-- `tx(seq)`: every byte of `seq`, in order. -/
def State.emit (bytes : List Byte) (s : State) : State :=
  { s with env := { s.env with tx := s.env.tx ++ bytes.map .byte, txPending := s.env.txPending ++ bytes } }

/-- `tp_flush()`: a marker in the trace. -/
def State.flush (s : State) : State := { s with env := { s.env with tx := s.env.tx ++ [.flush] } }

/-- `tp_reset()`: discards `RXQ` and the bytes of `TX` the host has not taken, and leaves a marker in the trace. -/
def State.tpReset (s : State) : State :=
  { s with env := { s.env with rxq := [], tx := s.env.tx ++ [.reset], txPending := [] } }

/-- `ack(c)`: one byte and nothing more. -/
def State.ack (c : AckCode) (s : State) : State := s.emit [c.toByte]

/-! ### Actuation calls and draws (R12, R14) -/

/-- One actuation call, recorded in `ACT`. -/
def State.call (c : ActCall) (s : State) : State := { s with env := { s.env with act := s.env.act ++ [c] } }

/-- One more free value has been used. -/
def State.countDraw (s : State) : State := { s with env := { s.env with draws := s.env.draws + 1 } }

/-- `act_seek(u, from, to)`: the call is recorded and the collaborator's answer drawn. -/
def State.actSeek (u fromCyl toCyl : Byte) (s : State) : SeekResult × State :=
  match s.env.answers.seek with
  | r :: rest =>
    (r, State.call (.seek u fromCyl toCyl)
      { s with env := { s.env with answers := { s.env.answers with seek := rest } } })
  | [] => (Config.freeSeek s.env.draws, (s.call (.seek u fromCyl toCyl)).countDraw)

/-- `act_wrprot()`: the call is recorded and the collaborator's answer drawn, true for write-protected. -/
def State.actWrprot (s : State) : Bool × State :=
  match s.env.answers.wrprot with
  | r :: rest => (r, State.call .wrprot { s with env := { s.env with answers := { s.env.answers with wrprot := rest } } })
  | [] => (Config.freeWrprot s.env.draws, (s.call .wrprot).countDraw)

/-- `draw usecs ∈ u32` (R14): the microseconds of the transfer that ends. -/
def State.drawUsecs (s : State) : U32 × State :=
  match s.env.answers.usecs with
  | u :: rest => (u, { s with env := { s.env with answers := { s.env.answers with usecs := rest } } })
  | [] => (Config.freeUsecs s.env.draws, s.countDraw)

/-- `draw f ∈ 0..255` (R261): one filler byte. -/
def State.drawFiller (s : State) : Byte × State :=
  match s.env.answers.filler with
  | f :: rest => (f, { s with env := { s.env with answers := { s.env.answers with filler := rest } } })
  | [] => (Config.freeFiller s.env.draws, s.countDraw)

/-! ### The mode register -/

/-- `mode <- m` (R8, R36). -/
def State.setMode (m : Mode) (s : State) : State := { s with frm := { s.frm with mode := m } }

/-- `F.rx_cnt <- n` (R35). -/
def State.setRxCnt (n : Nat) (s : State) : State := { s with frm := { s.frm with rxCnt := n } }

/-! ### The index spaces (R62) -/

/-- `zeros(n)` (R7). -/
def zeros (n : Nat) : List Byte := List.replicate n 0

/-- `MemRead(INFO, 0, 32)`: `gw_info` and its padding (R95, R150). -/
def State.infoFirmware (s : State) : List Byte :=
  [s.cfg.fwMajor, s.cfg.fwMinor, s.cfg.maxIndex, maxCmd] ++ le32 s.cfg.sampleFreq ++ le16 s.cfg.hwType ++ zeros 22

/-- `MemRead(INFO, 1, 32)`: `gw_bw_stats` and its padding (R96, R150). -/
def State.infoBwStats (s : State) : List Byte :=
  le32 s.dev.bwMin.bytes ++ le32 s.dev.bwMin.usecs ++ le32 s.dev.bwMax.bytes ++ le32 s.dev.bwMax.usecs ++ zeros 16

/-- `MemRead(PARAMS, 0, 10)` (R152). -/
def State.paramsRead (s : State) : List Byte := s.dev.delay

/-- `MemWrite(PARAMS, 0, 10, data)` (R154). -/
def State.paramsWrite (data : List Byte) (s : State) : State := { s with dev := { s.dev with delay := data } }

/-- `MemRead(IDXT, i, 4)` as CMD_GET_INDEX_TIMES reads it: zero while `S.cap_valid = 0` (R158). -/
def State.idxRead (s : State) (i : Nat) : U32 := if s.dev.capValid then s.dev.idxTime.getD i 0 else 0

/-- The payload of CMD_GET_INDEX_TIMES: `nr` entries from `first` (R158). -/
def State.idxBytes (s : State) (first : Nat) : Nat → List Byte
  | 0 => []
  | nr + 1 => le32 (s.idxRead first) ++ s.idxBytes (first + 1) nr

/-- `S.idx_time[i] <- v` (R229). -/
def State.idxWrite (i : Nat) (v : U32) (s : State) : State :=
  { s with dev := { s.dev with idxTime := s.dev.idxTime.set i v } }

/-- `S.idx_time[i] <- 0` for every `i` (R226, R185). -/
def State.idxClear (s : State) : State :=
  { s with dev := { s.dev with idxTime := List.replicate s.cfg.maxIndex.toNat 0 } }

/-- `S.motor[u] <- on` (R24). -/
def State.motorWrite (u : Byte) (on : Bool) (s : State) : State :=
  { s with dev := { s.dev with motor := s.dev.motor.set u.toNat on } }

/-- `S.cyl[u]` (R25). -/
def State.cylRead (s : State) (u : Byte) : Byte := s.dev.cyl.getD u.toNat 0

/-- `S.cyl[u] <- c` (R25). -/
def State.cylWrite (u c : Byte) (s : State) : State :=
  { s with dev := { s.dev with cyl := s.dev.cyl.set u.toNat c } }

/-- `S.side[u] <- sd` (R26). -/
def State.sideWrite (u : Byte) (sd : Bool) (s : State) : State :=
  { s with dev := { s.dev with side := s.dev.side.set u.toNat sd } }

/-- Set the level of pin `p` in a list of pin registers. -/
def setPinLevel (p : Byte) (level : Bool) : List PinReg → List PinReg
  | [] => []
  | r :: rest => (if r.id = p then { r with level := level } else r) :: setPinLevel p level rest

/-- `S.pin[p] <- level` (R27). -/
def State.pinWrite (p : Byte) (level : Bool) (s : State) : State :=
  { s with dev := { s.dev with pin := setPinLevel p level s.dev.pin } }

/-- `S.pin[p]`, for a pin of `PINS` (R27). -/
def State.pinRead (s : State) (p : Byte) : Option Bool := (s.dev.pin.find? (fun r => r.id = p)).map PinReg.level

/-- `S.sel <- u` (R22). -/
def State.setSel (u : Option Byte) (s : State) : State := { s with dev := { s.dev with sel := u } }

/-- `S.bus_type <- t` (R21). -/
def State.setBus (t : BusType) (s : State) : State := { s with dev := { s.dev with busType := t } }

/-- `if S.sel ≠ none: act_deselect()` (R172, R174, R176). -/
def State.releaseUnit (s : State) : State :=
  match s.dev.sel with
  | none => s
  | some _ => s.call .deselect

/-! ### Resets of groups (R51, R185) -/

/-- `restore_defaults()`: the group `DEFAULTS`, and `act_reset_defaults()` (R51). -/
def State.restoreDefaults (s : State) : State :=
  let d := Device.por s.cfg
  State.call .resetDefaults
    { s with dev := { s.dev with
        busType := d.busType, sel := d.sel, motor := d.motor, cyl := d.cyl, side := d.side, pin := d.pin,
        delay := d.delay } }

/-- `S.bw_min <- {0, 0}; S.bw_max <- {0, 0}` (R185). -/
def State.bwClear (s : State) : State := { s with dev := { s.dev with bwMin := ⟨0, 0⟩, bwMax := ⟨0, 0⟩ } }

/-! ### The bandwidth statistics (R263) -/

/-- `bw_sample(b, u)`; the products are of natural numbers, with no wrap. -/
def State.bwSample (b u : U32) (s : State) : State :=
  if b = 0 ∨ u = 0 then s
  else if s.dev.bwMin.usecs = 0 then { s with dev := { s.dev with bwMin := ⟨b, u⟩, bwMax := ⟨b, u⟩ } }
  else
    { s with dev := { s.dev with
        bwMin := if b.toNat * s.dev.bwMin.usecs.toNat < s.dev.bwMin.bytes.toNat * u.toNat then ⟨b, u⟩ else s.dev.bwMin,
        bwMax := if b.toNat * s.dev.bwMax.usecs.toNat > s.dev.bwMax.bytes.toNat * u.toNat then ⟨b, u⟩ else s.dev.bwMax } }

/-- The sample of the stream that ends: `draw usecs ∈ u32; bw_sample(T.xfer_bytes, usecs)` (R264). -/
def State.sampleStream (s : State) : State := (s.drawUsecs.2).bwSample s.strm.xferBytes s.drawUsecs.1

/-- `T.xfer_bytes <- T.xfer_bytes + n`, modulo 2^32 (R39). -/
def State.countBytes (n : Nat) (s : State) : State :=
  { s with strm := { s.strm with xferBytes := s.strm.xferBytes + BitVec.ofNat 32 n } }

/-! ### Ends of commands and streams -/

/-- The entry of a refusal, `raise Ack(c)`: `ack(c); tp_flush(); mode <- IDLE; rx_cnt <- 0`, nothing saved, and no
other state changed (R8, R297, R301). -/
def State.raiseAck (c : AckCode) (s : State) : State := (((s.ack c).flush).setMode .idle).setRxCnt 0

/-- The end of an accepted non-streaming command whose leading ack is `c`: the ack, the payload, `tp_flush()`,
`mode <- IDLE` (R72, R128). -/
def State.finish (c : AckCode) (payload : List Byte) (s : State) : State :=
  (((s.ack c).emit payload).flush).setMode .idle

/-- The end of the acceptance of a streaming command: `ack(OKAY); tp_flush(); mode <- m` (R128). -/
def State.enterStream (m : Mode) (s : State) : State := ((s.ack .okay).flush).setMode m

/-- The stream ends: its registers `T.*` are destroyed, so that nothing is known of them (R37 to R40, U16; log entry
5). -/
def State.destroyStream (s : State) : State :=
  State.countDraw { s with strm := Config.deadStream s.env.draws }

/-- `mode <- IDLE` at the end of a stream, which destroys its registers. -/
def State.endStream (s : State) : State := s.destroyStream.setMode .idle

/-- `rd_end(st)`, the end of a read stream (R231). -/
def State.rdEnd (st : AckCode) (s : State) : State :=
  let s1 := ((((s.emit [0x00]).countBytes 1).call .captureStop).setFluxStatus st)
  let s2 := if st = .okay then (s1.setCapValid true).sampleStream else s1
  s2.flush.endStream

/-- `wr_finish()`, the end of a write stream (R245). -/
def State.wrFinish (s : State) : State :=
  let s1 := s.setFluxStatus s.strm.wrResult
  let s2 := if s.strm.wrResult = .okay then s1.sampleStream else s1
  s2.endStream

/-- `xfer_done()`, the end of a source or sink transfer (R268). -/
def State.xferDone (s : State) : State := (s.sampleStream).flush.endStream

/-- `T.wr_result <- c` (R38). -/
def State.setWrResult (c : AckCode) (s : State) : State := { s with strm := { s.strm with wrResult := c } }

/-- A malformed token, `BAD(b)` (R241): playback stops, the status is `BAD_COMMAND`, and the stream ends at once if
`b` is the terminator and is drained otherwise. -/
def State.fluxBad (b : Byte) (s : State) : State :=
  let s1 := (s.call .playStop).setWrResult .badCommand
  if b = 0 then s1.wrFinish else s1.setMode .wrDrain

/-! ### The entry of `CLEAR_COMMS` (R277, R302) -/

/-- The call that stops what the mode has running: `act_capture_stop()` in `RD_STREAM`, `act_play_stop()` in
`WR_STREAM` and `WR_TAIL`, none elsewhere (R248, R277). -/
def State.stopStream (s : State) : State :=
  match s.frm.mode with
  | .rdStream => s.call .captureStop
  | .wrStream => s.call .playStop
  | .wrTail => s.call .playStop
  | .idle => s
  | .wrDrain => s
  | .src => s
  | .sink => s

/-- `clear_comms_service()`, in every mode: nothing is saved, and no byte is emitted (R277, R279, R302). -/
def State.clearComms (s : State) : State :=
  let s1 := (s.setClearPending false).stopStream
  let s2 := (s1.endStream).setRxCnt 0
  s2.restoreDefaults.tpReset

end Sys2Proof.Machine
end

