-- ==== Sys2Proof/Machine/Control.lean ====
section
/-!
DEFINITION. The control-channel writes (spec/47_control_channel.md R275): a step of the environment, which sets the
latch `S.clear_pending` or does nothing. The service that the latch asks for is `State.clearComms` of Machine/Ops.lean.
-/

namespace Sys2Proof.Machine

/-- CTRL_NORMAL: no effect, for 9600 and every other value but 10000 (R275). -/
def execCtrlNormal (_v : U32) (s : State) : Host.Outcome State Fault Refusal := .next s

/-- CTRL_CLEAR_COMMS: `S.clear_pending <- 1` (R275, R276). -/
def execCtrlClearComms (s : State) : Host.Outcome State Fault Refusal := .next (s.setClearPending true)

end Sys2Proof.Machine
end

