-- ==== Sys2Proof/Machine/Drive.lean ====
section
/-!
DEFINITION. The drive control commands (spec/42_drive_control.md): CMD_SEEK, CMD_SIDE, CMD_MOTOR, CMD_SELECT,
CMD_DESELECT, CMD_SET_BUS_TYPE, CMD_SET_PIN. The checks stand in the order of R127.
-/

namespace Sys2Proof.Machine

/-- CMD_SEEK (R165). -/
def execSeek (cyl : Byte) (s : State) : Host.Outcome State Fault Refusal :=
  .next <|
    match s.dev.sel with
    | none => s.raiseAck .noUnit
    | some u =>
      let r := s.actSeek u (s.cylRead u) cyl
      match r.1 with
      | .noTrk0 => r.2.raiseAck .noTrk0
      | .ok => (r.2.cylWrite u cyl).finish .okay []

/-- CMD_SIDE (R167). -/
def execSide (side : Byte) (s : State) : Host.Outcome State Fault Refusal :=
  .next <|
    match s.dev.sel with
    | none => s.raiseAck .noUnit
    | some u =>
      match sideOf side with
      | none => s.raiseAck .badCommand
      | some sd => ((s.sideWrite u sd).call (.side sd)).finish .okay []

/-- CMD_MOTOR (R169): it needs no selected unit and no bus. -/
def execMotor (drive on : Byte) (s : State) : Host.Outcome State Fault Refusal :=
  .next <|
    if drive.toNat > s.cfg.maxUnit.toNat then s.raiseAck .badUnit
    else ((s.motorWrite drive (boolOf on)).call (.motor drive (boolOf on))).finish .okay []

/-- CMD_SELECT (R172). -/
def execSelect (drive : Byte) (s : State) : Host.Outcome State Fault Refusal :=
  .next <|
    if s.dev.busType = .none then s.raiseAck .noBus
    else if drive.toNat > s.cfg.maxUnit.toNat then s.raiseAck .badUnit
    else if s.dev.sel = some drive then s.finish .okay []
    else ((s.releaseUnit.call (.select drive)).setSel (some drive)).finish .okay []

/-- CMD_DESELECT (R174). -/
def execDeselect (s : State) : Host.Outcome State Fault Refusal :=
  .next ((s.releaseUnit.setSel none).finish .okay [])

/-- CMD_SET_BUS_TYPE (R176): it deselects even when the type does not change. -/
def execSetBusType (type : Byte) (s : State) : Host.Outcome State Fault Refusal :=
  .next <|
    match busTypeOf type with
    | none => s.raiseAck .badCommand
    | some t => (((s.releaseUnit.setSel none).setBus t).call (.bus t)).finish .okay []

/-- CMD_SET_PIN (R178). -/
def execSetPin (pin level : Byte) (s : State) : Host.Outcome State Fault Refusal :=
  .next <|
    match s.dev.sel with
    | none => s.raiseAck .noUnit
    | some _ =>
      if pin ∉ s.cfg.pins then s.raiseAck .badPin
      else ((s.pinWrite pin (boolOf level)).call (.pin pin (boolOf level))).finish .okay []

end Sys2Proof.Machine
end

