-- ==== Sys2Proof/Machine/Flux.lean ====
section
/-!
DEFINITION. The flux commands CMD_READ_FLUX, CMD_WRITE_FLUX, CMD_ERASE_FLUX (spec/45_flux_commands.md) and the
throughput commands CMD_SOURCE_BYTES, CMD_SINK_BYTES (spec/46_throughput.md). None of them checks the selected unit,
the bus or a motor (R251).
-/

namespace Sys2Proof.Machine

/-- CMD_READ_FLUX (R225, R226). -/
def execReadFlux (nrIdx : Option Byte) (s : State) : Host.Outcome State Fault Refusal :=
  let n := nrIdxOf nrIdx
  .next <|
    if n = 0 ∨ n.toNat > s.cfg.maxIndex.toNat then s.raiseAck .badCommand
    else
      let s1 := (s.setCapValid false).idxClear
      let s2 := { s1 with strm := { s1.strm with rdTarget := n, rdSeen := 0, rdCum := 0, xferBytes := 0 } }
      (s2.call .captureStart).enterStream .rdStream

/-- CMD_WRITE_FLUX (R235, R236). -/
def execWriteFlux (tai : Option Byte) (s : State) : Host.Outcome State Fault Refusal :=
  let r := s.actWrprot
  let t := taiOf tai
  .next <|
    if r.1 then r.2.raiseAck .wrprot
    else
      let s1 := { r.2 with strm := { r.2.strm with wrTai := t, wrResult := .okay, dec := .tok, xferBytes := 0 } }
      (s1.call (.playStart t)).enterStream .wrStream

/-- CMD_ERASE_FLUX (R250): synchronous, with no stream. -/
def execEraseFlux (ticks : U32) (s : State) : Host.Outcome State Fault Refusal :=
  let r := s.actWrprot
  .next <|
    if r.1 then r.2.raiseAck .wrprot
    else (r.2.call (.erase ticks)).finish .okay []

/-- CMD_SOURCE_BYTES (R260). -/
def execSourceBytes (n : U32) (s : State) : Host.Outcome State Fault Refusal :=
  let s1 := { s with strm := { s.strm with xferLeft := n, xferBytes := 0 } }
  .next (s1.enterStream (if n = 0 then .idle else .src))

/-- CMD_SINK_BYTES (R265). -/
def execSinkBytes (n : U32) (s : State) : Host.Outcome State Fault Refusal :=
  let s1 := { s with strm := { s.strm with xferLeft := n, xferBytes := 0 } }
  .next (s1.enterStream (if n = 0 then .idle else .sink))

end Sys2Proof.Machine
end

