-- ==== Sys2Proof/Machine/Info.lean ====
section
/-!
DEFINITION. The information and parameter commands (spec/41_info_params.md): CMD_GET_INFO, CMD_GET_PARAMS,
CMD_SET_PARAMS, CMD_GET_FLUX_STATUS, CMD_GET_INDEX_TIMES.
-/

namespace Sys2Proof.Machine

/-- CMD_GET_INFO (R150). -/
def execGetInfo (idx : Byte) (s : State) : Host.Outcome State Fault Refusal :=
  .next <|
    if idx = 0 then s.finish .okay s.infoFirmware
    else if idx = 1 then s.finish .okay s.infoBwStats
    else s.raiseAck .badCommand

/-- CMD_GET_PARAMS (R152). -/
def execGetParams (idx nr : Byte) (s : State) : Host.Outcome State Fault Refusal :=
  .next <|
    if idx ≠ 0 then s.raiseAck .badCommand
    else if nr ≠ 10 then s.raiseAck .badCommand
    else s.finish .okay s.paramsRead

/-- CMD_SET_PARAMS (R154); `nr` is the number of data bytes (R93 (c)). -/
def execSetParams (idx : Byte) (data : List Byte) (s : State) : Host.Outcome State Fault Refusal :=
  .next <|
    if idx ≠ 0 then s.raiseAck .badCommand
    else if data.length ≠ 10 then s.raiseAck .badCommand
    else (s.paramsWrite data).finish .okay []

/-- CMD_GET_FLUX_STATUS (R156): the stored status is the leading ack itself. -/
def execGetFluxStatus (s : State) : Host.Outcome State Fault Refusal :=
  .next (s.finish s.dev.fluxStatus [])

/-- CMD_GET_INDEX_TIMES (R158); the sum of the check is of natural numbers. -/
def execGetIndexTimes (first nr : Byte) (s : State) : Host.Outcome State Fault Refusal :=
  .next <|
    if first.toNat + nr.toNat > s.cfg.maxIndex.toNat then s.raiseAck .badCommand
    else s.finish .okay (s.idxBytes first.toNat nr.toNat)

end Sys2Proof.Machine
end

