-- ==== Sys2Proof/Machine/System.lean ====
section
/-!
DEFINITION. The system commands CMD_RESET and CMD_SWITCH_FW_MODE (spec/43_system.md), and the packets that are
refused for their opcode or their length byte (R124, R125, R189). A refusal's entry is `State.raiseAck`.
-/

namespace Sys2Proof.Machine

/-- CMD_RESET (R185): it consults no answer of the collaborator, and always succeeds. -/
def execReset (s : State) : Host.Outcome State Fault Refusal :=
  .next ((((s.restoreDefaults.setFluxStatus .okay).setCapValid false).idxClear.bwClear).finish .okay [])

/-- CMD_SWITCH_FW_MODE (R187): it raises a signal and changes no register. -/
def execSwitchFwMode (mode : Byte) (s : State) : Host.Outcome State Fault Refusal :=
  .next <|
    match fwModeOf mode with
    | none => s.raiseAck .badCommand
    | some m => (s.call (.fwMode m)).finish .okay []

/-- RESERVED_01 (R189). -/
def execReserved01 (_body : List Byte) (s : State) : Host.Outcome State Fault Refusal :=
  .next (s.raiseAck .badCommand)

/-- UNKNOWN_14_17 (R125). -/
def execUnknown14to17 (_op : Byte) (_body : List Byte) (s : State) : Host.Outcome State Fault Refusal :=
  .next (s.raiseAck .badCommand)

/-- UNKNOWN_18_1F (R125). -/
def execUnknown18to1F (_op : Byte) (_body : List Byte) (s : State) : Host.Outcome State Fault Refusal :=
  .next (s.raiseAck .badCommand)

/-- UNKNOWN_20_3F (R125). -/
def execUnknown20to3F (_op : Byte) (_body : List Byte) (s : State) : Host.Outcome State Fault Refusal :=
  .next (s.raiseAck .badCommand)

/-- UNKNOWN_40_7F (R125). -/
def execUnknown40to7F (_op : Byte) (_body : List Byte) (s : State) : Host.Outcome State Fault Refusal :=
  .next (s.raiseAck .badCommand)

/-- UNKNOWN_80_FF (R125). -/
def execUnknown80toFF (_op : Byte) (_body : List Byte) (s : State) : Host.Outcome State Fault Refusal :=
  .next (s.raiseAck .badCommand)

/-- BAD_LENGTH_00_01 (R124): `F.rx_cnt <- 0; raise Ack(BAD_COMMAND)`. -/
def execBadLength (_op _len : Byte) (s : State) : Host.Outcome State Fault Refusal :=
  .next ((s.setRxCnt 0).raiseAck .badCommand)

end Sys2Proof.Machine
end

