-- ==== Sys2Proof/Machine/Token.lean ====
section
/-!
DEFINITION. The flux tokens of a write stream (spec/44_flux_codec.md R195 to R211; spec/45_flux_commands.md R238 to
R241). A token's meaning is its effect at the step that consumes its last byte, after `T.xfer_bytes` and `T.dec` have
been advanced by that step (Machine/Engine.lean).
-/

namespace Sys2Proof.Machine

/-- FLUX_EOS, `END` (R239): `act_play_end()`, then the end of the stream, or the wait for the index pulse. -/
def execFluxEos (s : State) : Host.Outcome State Fault Refusal :=
  let s1 := s.call .playEnd
  .next (if s.strm.wrTai then s1.setMode .wrTail else s1.wrFinish)

/-- FLUX_SHORT: an interval of `b` ticks (R196, R238). -/
def execFluxShort (b : Byte) (s : State) : Host.Outcome State Fault Refusal :=
  .next (s.call (.play b.toNat))

/-- FLUX_MED: an interval of two bytes; a second byte `00` is malformed (R196, R207, R211). -/
def execFluxMed (b0 b1 : Byte) (s : State) : Host.Outcome State Fault Refusal :=
  .next (if b1 = 0 then s.fluxBad b1 else s.call (.play (medTicks b0 b1)))

/-- FLUXOP_INDEX: parsed and ignored; malformed where an even byte cut its argument short (R209, R240). -/
def execFluxIndex (arg : List Byte) (s : State) : Host.Outcome State Fault Refusal :=
  .next <|
    match fluxArg arg with
    | some _ => s
    | none => s.fluxBad (fluxArgByte arg)

/-- FLUXOP_LONG: an interval; malformed where an even byte cut its argument short or its value is 0 (R209). -/
def execFluxLong (arg : List Byte) (s : State) : Host.Outcome State Fault Refusal :=
  .next <|
    match fluxArg arg with
    | some t => if t = 0 then s.fluxBad (fluxArgByte arg) else s.call (.play t)
    | none => s.fluxBad (fluxArgByte arg)

/-- FLUXOP_RESERVED: malformed (R208). -/
def execFluxReserved (op : Byte) (s : State) : Host.Outcome State Fault Refusal :=
  .next (s.fluxBad op)

end Sys2Proof.Machine
end

