-- ==== Sys2Proof/Machine/Dispatch.lean ====
section
/-!
DEFINITION. The meaning of every instruction: one arm for each constructor, in the order of spec/opcode_table.json.
-/

namespace Sys2Proof.Machine

/-- The effect of an instruction (R134 for the commands, R238 for the tokens, R275 for the control values). -/
def exec (i : Instr) (s : State) : Host.Outcome State Fault Refusal :=
  match i with
  | .getInfo idx => Sys2Proof.Machine.execGetInfo idx s
  | .reserved01 body => Sys2Proof.Machine.execReserved01 body s
  | .seek cyl => Sys2Proof.Machine.execSeek cyl s
  | .side sd => Sys2Proof.Machine.execSide sd s
  | .setParams idx data => Sys2Proof.Machine.execSetParams idx data s
  | .getParams idx nr => Sys2Proof.Machine.execGetParams idx nr s
  | .motor drive on => Sys2Proof.Machine.execMotor drive on s
  | .readFlux nrIdx => Sys2Proof.Machine.execReadFlux nrIdx s
  | .writeFlux tai => Sys2Proof.Machine.execWriteFlux tai s
  | .getFluxStatus => Sys2Proof.Machine.execGetFluxStatus s
  | .getIndexTimes first nr => Sys2Proof.Machine.execGetIndexTimes first nr s
  | .switchFwMode mode => Sys2Proof.Machine.execSwitchFwMode mode s
  | .select drive => Sys2Proof.Machine.execSelect drive s
  | .deselect => Sys2Proof.Machine.execDeselect s
  | .setBusType type => Sys2Proof.Machine.execSetBusType type s
  | .setPin pin level => Sys2Proof.Machine.execSetPin pin level s
  | .reset => Sys2Proof.Machine.execReset s
  | .eraseFlux ticks => Sys2Proof.Machine.execEraseFlux ticks s
  | .sourceBytes n => Sys2Proof.Machine.execSourceBytes n s
  | .sinkBytes n => Sys2Proof.Machine.execSinkBytes n s
  | .unknown14to17 op body => Sys2Proof.Machine.execUnknown14to17 op body s
  | .unknown18to1F op body => Sys2Proof.Machine.execUnknown18to1F op body s
  | .unknown20to3F op body => Sys2Proof.Machine.execUnknown20to3F op body s
  | .unknown40to7F op body => Sys2Proof.Machine.execUnknown40to7F op body s
  | .unknown80toFF op body => Sys2Proof.Machine.execUnknown80toFF op body s
  | .badLength op len => Sys2Proof.Machine.execBadLength op len s
  | .fluxEos => Sys2Proof.Machine.execFluxEos s
  | .fluxShort b => Sys2Proof.Machine.execFluxShort b s
  | .fluxMed b0 b1 => Sys2Proof.Machine.execFluxMed b0 b1 s
  | .fluxIndex arg => Sys2Proof.Machine.execFluxIndex arg s
  | .fluxLong arg => Sys2Proof.Machine.execFluxLong arg s
  | .fluxReserved op => Sys2Proof.Machine.execFluxReserved op s
  | .ctrlNormal v => Sys2Proof.Machine.execCtrlNormal v s
  | .ctrlClearComms => Sys2Proof.Machine.execCtrlClearComms s

end Sys2Proof.Machine
end

