-- ==== Sys2Proof/Machine/Events.lean ====
section
/-!
DEFINITION. The engine steps that no instruction names: the collaborator's events in each mode (steps of kind (d),
spec/45_flux_commands.md R228 to R247), the filler byte of `SRC` (step (c), spec/46_throughput.md R261), and the bytes
consumed in `SINK` and `WR_DRAIN` (R266, R244).
-/

namespace Sys2Proof.Machine

/-- `EV_EDGE(t)` in `RD_STREAM` (R228). -/
def State.readEdge (t : Nat) (s : State) : State :=
  if t = 0 ∨ t > tickMax then s.rdEnd .fluxOverflow
  else
    let s1 := (s.emit (enc t)).countBytes (enc t).length
    { s1 with strm := { s1.strm with rdCum := s1.strm.rdCum + BitVec.ofNat 32 t } }

/-- `EV_INDEX(d)` in `RD_STREAM` (R229). -/
def State.readIndex (d : Nat) (s : State) : State :=
  if d > tickMax then s.rdEnd .fluxOverflow
  else
    let s1 := (s.emit (encIndex d)).countBytes 6
    let s2 := s1.idxWrite s.strm.rdSeen.toNat (s.strm.rdCum + BitVec.ofNat 32 d)
    let s3 := { s2 with strm := { s2.strm with rdSeen := s2.strm.rdSeen + 1 } }
    if s3.strm.rdSeen = s3.strm.rdTarget then s3.rdEnd .okay else s3

/-- `EV_UNDERRUN` in `WR_STREAM`, where it is accepted only while `RXQ` is empty (R13, R242). -/
def State.writeUnderrun (s : State) : State :=
  if s.env.rxq = [] then ((s.call .playStop).setWrResult .fluxUnderflow).setMode .wrDrain else s

/-- `EV_INDEX` in `WR_STREAM` (R243). -/
def State.writeIndex (s : State) : State :=
  if s.strm.wrTai then (s.call .playStop).setMode .wrDrain else s

/-- `EV_INDEX` in `WR_TAIL` (R246). -/
def State.tailIndex (s : State) : State := (s.call .playStop).wrFinish

/-- `EV_NO_INDEX` in `WR_TAIL` (R246). -/
def State.tailNoIndex (s : State) : State := ((s.call .playStop).setWrResult .noIndex).wrFinish

/-- The engine consumes one event; an event that the mode does not accept is ignored (R13, R247). -/
def State.onEvent (e : Event) (s : State) : State :=
  match s.frm.mode, e with
  | .rdStream, .edge t => s.readEdge t
  | .rdStream, .index d => s.readIndex d
  | .rdStream, .overrun => s.rdEnd .fluxOverflow
  | .rdStream, .noIndex => s.rdEnd .noIndex
  | .wrStream, .index _ => s.writeIndex
  | .wrStream, .underrun => s.writeUnderrun
  | .wrTail, .index _ => s.tailIndex
  | .wrTail, .noIndex => s.tailNoIndex
  | _, _ => s

/-- `T.xfer_left <- T.xfer_left − 1; T.xfer_bytes <- T.xfer_bytes + 1`, and the end of the transfer at 0 (R261,
R266). -/
def State.transferByte (s : State) : State :=
  let s1 := { s with strm := { s.strm with xferLeft := s.strm.xferLeft - 1, xferBytes := s.strm.xferBytes + 1 } }
  if s1.strm.xferLeft = 0 then s1.xferDone else s1

/-- One filler byte in `SRC` (R261). -/
def State.sourceByte (s : State) : State := ((s.drawFiller.2).emit [s.drawFiller.1]).transferByte

/-- A byte in `SINK`, discarded unread (R266). -/
def State.sinkByte (_b : Byte) (s : State) : State := s.transferByte

/-- A byte in `WR_DRAIN` (R244). -/
def State.drainByte (b : Byte) (s : State) : State :=
  let s1 := s.countBytes 1
  if b = 0 then s1.wrFinish else s1

end Sys2Proof.Machine
end

