-- ==== Sys2Proof/Machine/Engine.lean ====
section
/-!
DEFINITION. The engine: the framer and the dispatcher (spec/40_framer_dispatch.md), the bytes of a write stream
(spec/45_flux_commands.md R238), the order of the engine's steps (spec/00_scope.md R9) and the turns of the
environment. An instruction is fetched by the byte that completes it: a packet's last byte, or a token's.
-/

namespace Sys2Proof.Machine

/-- `dispatch(P)`: the packet's instruction runs; a packet that selects no row is refused (R125, R126, R134). -/
def dispatch (bytes : List Byte) (s : State) : Host.Outcome State Fault Refusal :=
  match decodePacket bytes with
  | .ok i => exec i s
  | .rejected _ => .next (s.raiseAck .badCommand)

/-- `F.cbuf[F.rx_cnt] <- b; F.rx_cnt <- F.rx_cnt + 1` (R122). -/
def State.accumulate (b : Byte) (s : State) : State :=
  { s with frm := { s.frm with cbuf := s.frm.cbuf.set s.frm.rxCnt b, rxCnt := s.frm.rxCnt + 1 } }

/-- The bytes accumulated so far are judged: `some P` where they are a complete packet, or two header bytes with a
length byte below 2 (R122 to R124). -/
def Framer.complete (f : Framer) : Option (List Byte) :=
  let len := (f.cbuf.getD 1 0).toNat
  if f.rxCnt < 2 then none
  else if len < 2 then some (f.cbuf.take 2)
  else if f.rxCnt = len then some (f.cbuf.take len)
  else none

/-- A byte in `IDLE` (R122 to R124). -/
def frameByte (b : Byte) (s : State) : Host.Outcome State Fault Refusal :=
  let s1 := s.accumulate b
  match s1.frm.complete with
  | some bytes => dispatch bytes (s1.setRxCnt 0)
  | none => .next s1

/-- `T.xfer_bytes <- T.xfer_bytes + 1`, and the decoder's next phase (R238). -/
def State.decodeByte (b : Byte) (s : State) : State :=
  let s1 := s.countBytes 1
  { s1 with strm := { s1.strm with dec := (decStep s.strm.dec b).1 } }

/-- A byte in `WR_STREAM` (R238): a byte that completes a token runs it. -/
def streamByte (b : Byte) (s : State) : Host.Outcome State Fault Refusal :=
  match decToken s.strm.dec b with
  | some i => exec i (s.decodeByte b)
  | none => .next (s.decodeByte b)

/-- The engine's own step (R9): the pending `CLEAR_COMMS` first; else, by the mode, one byte of `RXQ` or one filler
byte (R121, R261). Where no step is enabled the engine waits, and nothing changes (R130, R305). -/
def engineStep (s : State) : Host.Outcome State Fault Refusal :=
  if s.dev.clearPending then .next s.clearComms
  else
    match s.frm.mode, s.env.rxq with
    | .src, _ => .next s.sourceByte
    | .idle, b :: rest => frameByte b { s with env := { s.env with rxq := rest } }
    | .wrStream, b :: rest => streamByte b { s with env := { s.env with rxq := rest } }
    | .wrDrain, b :: rest => .next (State.drainByte b { s with env := { s.env with rxq := rest } })
    | .sink, b :: rest => .next (State.sinkByte b { s with env := { s.env with rxq := rest } })
    | _, _ => .next s

/-- Power-on reset (R50): every register to its reset value, `RXQ`, `TX` and `ACT` empty; the turns and answers to
come stay. -/
def State.powerOn (s : State) : State :=
  { State.por s.cfg with
    env := { Env.por with sched := s.env.sched, answers := s.env.answers, draws := s.env.draws } }

/-- One turn (R9). An event that is raised while `CLEAR_COMMS` is pending waits for the service, which has priority
(R278). -/
def turn (s : State) : Host.Outcome State Fault Refusal :=
  match s.env.sched with
  | [] => engineStep s
  | .engine :: rest => engineStep { s with env := { s.env with sched := rest } }
  | .hostByte b :: rest => .next { s with env := { s.env with sched := rest, rxq := s.env.rxq ++ [b] } }
  | .hostTake n :: rest => .next { s with env := { s.env with sched := rest, txPending := s.env.txPending.drop n } }
  | .ctrl v :: rest => exec (decodeCtrl v) { s with env := { s.env with sched := rest } }
  | .event e :: rest =>
    if s.dev.clearPending then .next s.clearComms
    else .next (State.onEvent e { s with env := { s.env with sched := rest } })
  | .powerOn :: rest => .next (State.powerOn { s with env := { s.env with sched := rest } })

/-! ### Placing an instruction where the next step fetches it -/

/-- All bytes of a packet but the last are in `cbuf`, and the last is the next byte of `RXQ`. -/
def State.placePacket (bytes : List Byte) (s : State) : State :=
  { s with
    dev := { s.dev with clearPending := false }
    frm := ⟨.idle, bytes.length - 1, bytes.dropLast ++ s.frm.cbuf.drop (bytes.length - 1)⟩
    env := { s.env with rxq := bytes.getLastD 0 :: s.env.rxq, sched := .engine :: s.env.sched } }

/-- A write stream is in progress, the decoder in a phase, and `b` is the next byte of `RXQ`. -/
def State.placeToken (phase : DecPhase) (b : Byte) (s : State) : State :=
  { s with
    dev := { s.dev with clearPending := false }
    frm := { s.frm with mode := .wrStream }
    strm := { s.strm with dec := phase }
    env := { s.env with rxq := b :: s.env.rxq, sched := .engine :: s.env.sched } }

/-- The next turn is a control-channel write. -/
def State.placeCtrl (v : U32) (s : State) : State :=
  { s with env := { s.env with sched := .ctrl v :: s.env.sched } }

/-- The instruction of a wire is placed where the next step fetches it; of a token's bytes, the first token. -/
def State.place (w : Wire) (s : State) : State :=
  match w with
  | .packet bytes => s.placePacket bytes
  | .token bytes =>
    match splitToken .tok bytes with
    | some (phase, b) => s.placeToken phase b
    | none => s
  | .ctrl v => s.placeCtrl v

end Sys2Proof.Machine
end

