-- ==== Sys2Proof/Machine/Step.lean ====
section
/-!
DEFINITION. One step of the machine: the turn that the schedule names (Machine/Engine.lean), and the placing of a word
of spec/opcode_table.json where the next step fetches it.
-/

namespace Sys2Proof.Machine

/-- One step (R9). -/
def step (s : State) : Host.Outcome State Fault Refusal := Sys2Proof.Machine.turn s

/-- The state whose next step fetches and runs the instruction of a word of the table (log entry 12). -/
def State.withFetchWord (s : State) (nbits w : Nat) : State :=
  match tableWire nbits w with
  | some wire => s.place wire
  | none => s

end Sys2Proof.Machine
end

