-- ==== Sys2Proof/Safety.lean ====
section
/-!
DEFINITION. The terms that statements use: the invariant of the machine, what an answered and a refused command leave,
the instruction and the event that a step takes, the transitions of the mode register, and captured streams.
-/

namespace Sys2Proof.Machine

/-! ### The invariant -/

/-- The statuses `S.flux_status` can hold (R29). -/
def fluxStatusOk (c : AckCode) : Bool :=
  decide (c = .okay ∨ c = .badCommand ∨ c = .noIndex ∨ c = .fluxOverflow ∨ c = .fluxUnderflow)

/-- The invariants of the bandwidth statistics (R34, R269 (a), (b)). -/
def bwOk (mn mx : BwPair) : Bool :=
  if mn.usecs = 0 then decide (mn = ⟨0, 0⟩ ∧ mx = ⟨0, 0⟩)
  else decide (mn.bytes ≠ 0 ∧ mx.bytes ≠ 0 ∧ mx.usecs ≠ 0 ∧
    mn.bytes.toNat * mx.usecs.toNat ≤ mx.bytes.toNat * mn.usecs.toNat)

/-- The selected unit exists, and there is a bus (R22, R23). -/
def selOk (c : Config) (d : Device) : Bool :=
  match d.sel with
  | none => true
  | some u => decide (u.toNat ≤ c.maxUnit.toNat) && decide (d.busType ≠ .none)

/-- The device registers have the shapes of R21 to R34. -/
def Device.wf (c : Config) (d : Device) : Bool :=
  selOk c d && decide (d.motor.length = c.maxUnit.toNat + 1) && decide (d.cyl.length = c.maxUnit.toNat + 1) &&
  decide (d.side.length = c.maxUnit.toNat + 1) && decide (d.pin.map PinReg.id = c.pins) &&
  decide (d.delay.length = 10) && decide (d.idxTime.length = c.maxIndex.toNat) && fluxStatusOk d.fluxStatus &&
  bwOk d.bwMin d.bwMax

/-- The framer: an incomplete packet is being accumulated, and only in `IDLE` (R35, R122, R123). -/
def Framer.wf (f : Framer) : Bool :=
  decide (f.cbuf.length = 255) && decide (f.mode = .idle ∨ f.rxCnt = 0) &&
  decide (f.rxCnt < 2 ∨ (2 ≤ (f.cbuf.getD 1 0).toNat ∧ f.rxCnt < (f.cbuf.getD 1 0).toNat))

/-- The stream registers that the mode uses (R37 to R40): in `RD_STREAM` the next table index is in range and every
entry not yet seen is 0 (R33, R229); in the write modes the status is one R245 lists; in `SRC` and `SINK` bytes are
left to move. -/
def streamOk (s : State) : Bool :=
  match s.frm.mode with
  | .idle => true
  | .rdStream =>
    decide (s.strm.rdSeen.toNat < s.strm.rdTarget.toNat) &&
    decide (s.strm.rdTarget.toNat ≤ s.cfg.maxIndex.toNat) && decide (s.dev.capValid = false) &&
    (s.dev.idxTime.drop s.strm.rdSeen.toNat).all (fun v => decide (v = 0))
  | .wrStream => s.strm.dec.wf && decide (s.strm.wrResult = .okay)
  | .wrDrain => decide (s.strm.wrResult = .okay ∨ s.strm.wrResult = .badCommand ∨ s.strm.wrResult = .fluxUnderflow)
  | .wrTail => decide (s.strm.wrResult = .okay ∧ s.strm.wrTai = true)
  | .src => decide (s.strm.xferLeft ≠ 0)
  | .sink => decide (s.strm.xferLeft ≠ 0)

/-- The invariant that every step keeps. -/
def State.Inv (s : State) : Bool := s.cfg.wf && s.dev.wf s.cfg && s.frm.wf && streamOk s

/-! ### What a command leaves -/

/-- The state after a command that wrote `dev`, made the calls `calls` and answered `c` with `payload`: everything
else is as it was (R72, R128). -/
def State.answered (s : State) (dev : Device) (calls : List ActCall) (c : AckCode) (payload : List Byte) : State :=
  { s with
    dev := dev
    frm := { s.frm with mode := .idle }
    env := { s.env with
      tx := s.env.tx ++ .byte c.toByte :: payload.map .byte ++ [.flush]
      txPending := s.env.txPending ++ c.toByte :: payload
      act := s.env.act ++ calls } }

/-- The state after a refusal with `c` (R297). -/
def State.refused (s : State) (c : AckCode) : State :=
  { s with
    frm := { s.frm with mode := .idle, rxCnt := 0 }
    env := { s.env with
      tx := s.env.tx ++ [.byte c.toByte, .flush]
      txPending := s.env.txPending ++ [c.toByte] } }

/-- The state after the acceptance of a streaming command: the leading ack `OKAY`, the mode and the stream's
registers (R128). -/
def State.started (s : State) (dev : Device) (strm : Stream) (calls : List ActCall) (m : Mode) : State :=
  { s with
    dev := dev
    strm := strm
    frm := { s.frm with mode := m }
    env := { s.env with
      tx := s.env.tx ++ [.byte AckCode.okay.toByte, .flush]
      txPending := s.env.txPending ++ [AckCode.okay.toByte]
      act := s.env.act ++ calls } }

/-- What CMD_RESET and `CLEAR_COMMS` restore: the group `DEFAULTS` of R51, other device registers kept. -/
def Device.withDefaults (c : Config) (d : Device) : Device :=
  { d with
    busType := .none
    sel := none
    motor := List.replicate (c.maxUnit.toNat + 1) false
    cyl := List.replicate (c.maxUnit.toNat + 1) 0
    side := List.replicate (c.maxUnit.toNat + 1) false
    pin := c.pins.map fun p => ⟨p, c.pinResetLevel⟩
    delay := c.delayReset }

/-- The instruction is carried by a command packet. -/
def isPacket (i : Instr) : Bool :=
  match encode i with
  | .packet _ => true
  | .token _ => false
  | .ctrl _ => false

/-- The leading acks each instruction of a packet can elicit (R292), the packet being of a length legal for it; for
CMD_GET_FLUX_STATUS the stored status. -/
def leadingAcks : Instr → List AckCode
  | .getInfo _ => [.okay, .badCommand]
  | .seek _ => [.okay, .noUnit, .noTrk0]
  | .side _ => [.okay, .noUnit, .badCommand]
  | .setParams _ _ => [.okay, .badCommand]
  | .getParams _ _ => [.okay, .badCommand]
  | .motor _ _ => [.okay, .badUnit]
  | .readFlux _ => [.okay, .badCommand]
  | .writeFlux _ => [.okay, .wrprot]
  | .getFluxStatus => [.okay, .badCommand, .noIndex, .fluxOverflow, .fluxUnderflow]
  | .getIndexTimes _ _ => [.okay, .badCommand]
  | .switchFwMode _ => [.okay, .badCommand]
  | .select _ => [.okay, .noBus, .badUnit]
  | .deselect => [.okay]
  | .setBusType _ => [.okay, .badCommand]
  | .setPin _ _ => [.okay, .noUnit, .badPin]
  | .reset => [.okay]
  | .eraseFlux _ => [.okay, .wrprot]
  | .sourceBytes _ => [.okay]
  | .sinkBytes _ => [.okay]
  | .reserved01 _ => [.badCommand]
  | .unknown14to17 _ _ => [.badCommand]
  | .unknown18to1F _ _ => [.badCommand]
  | .unknown20to3F _ _ => [.badCommand]
  | .unknown40to7F _ _ => [.badCommand]
  | .unknown80toFF _ _ => [.badCommand]
  | .badLength _ _ => [.badCommand]
  | .fluxEos => []
  | .fluxShort _ => []
  | .fluxMed _ _ => []
  | .fluxIndex _ => []
  | .fluxLong _ => []
  | .fluxReserved _ => []
  | .ctrlNormal _ => []
  | .ctrlClearComms => []

/-- The calls that the collaborator's errors leave in the trace: `act_seek` before `NO_TRK0`, `act_wrprot` before
`WRPROT`, none before any other refusal (R295, R297). -/
def refusalCalls (c : AckCode) (calls : List ActCall) : Prop :=
  match c with
  | .noTrk0 => ∃ u f t, calls = [.seek u f t]
  | .wrprot => calls = [.wrprot]
  | _ => calls = []

/-! ### What a step takes -/

/-- It is the engine's own turn, no `CLEAR_COMMS` is pending, and the state once the turn is taken. -/
def State.engineTurn (s : State) : Option State :=
  if s.dev.clearPending then none
  else
    match s.env.sched with
    | [] => some s
    | .engine :: rest => some { s with env := { s.env with sched := rest } }
    | _ => none

/-- The instruction that the step fetches and runs, if any: the packet that the next byte completes in `IDLE`, the
token it completes in `WR_STREAM`, or the control-channel write whose turn it is. -/
def State.fetched (s : State) : Option Instr :=
  match s.env.sched with
  | .ctrl v :: _ => some (decodeCtrl v)
  | _ =>
    match s.engineTurn with
    | none => none
    | some s1 =>
      match s1.frm.mode, s1.env.rxq with
      | .idle, b :: _ => (s1.accumulate b).frm.complete.bind fun bytes => (decodePacket bytes).toOption
      | .wrStream, b :: _ => decToken s1.strm.dec b
      | _, _ => none

/-- The event that the step consumes, if any. -/
def State.takenEvent (s : State) : Option Event :=
  match s.env.sched with
  | .event e :: _ => if s.dev.clearPending then none else some e
  | _ => none

/-- The byte of `RXQ` that the step consumes in a mode, if any (R121). -/
def State.takenByte (s : State) (m : Mode) : Option Byte :=
  match s.engineTurn with
  | none => none
  | some s1 => if s1.frm.mode = m then s1.env.rxq.head? else none

/-- The step is power-on reset. -/
def State.powersOn (s : State) : Bool :=
  match s.env.sched with
  | .powerOn :: _ => true
  | _ => false

/-- The step services `CLEAR_COMMS`: it is pending, and the turn is the engine's own or an event (R278). -/
def State.servicesClear (s : State) : Bool :=
  s.dev.clearPending &&
    match s.env.sched with
    | [] => true
    | .engine :: _ => true
    | .event _ :: _ => true
    | _ => false

/-- The malformed tokens of R241, and the byte each reports. -/
def malformedByte : Instr → Option Byte
  | .fluxMed _ b1 => if b1 = 0 then some 0 else none
  | .fluxIndex arg => if (fluxArg arg).isSome then none else some (fluxArgByte arg)
  | .fluxLong arg => if fluxArg arg ≠ none ∧ fluxArg arg ≠ some 0 then none else some (fluxArgByte arg)
  | .fluxReserved op => some op
  | _ => none

/-- A change of `F.mode` that R132 lists, with its cause in the state before. -/
def ModeChange (s : State) (m : Mode) : Prop :=
  (m = .idle ∧ (s.servicesClear = true ∨ s.powersOn = true)) ∨
  match s.frm.mode, m with
  | .idle, .rdStream => ∃ n, s.fetched = some (.readFlux n)
  | .idle, .wrStream => ∃ t, s.fetched = some (.writeFlux t)
  | .idle, .src => ∃ n, n ≠ 0 ∧ s.fetched = some (.sourceBytes n)
  | .idle, .sink => ∃ n, n ≠ 0 ∧ s.fetched = some (.sinkBytes n)
  | .rdStream, .idle =>
    (∃ d, s.takenEvent = some (.index d) ∧ (d > tickMax ∨ s.strm.rdSeen + 1 = s.strm.rdTarget)) ∨
    (∃ t, s.takenEvent = some (.edge t) ∧ (t = 0 ∨ t > tickMax)) ∨
    s.takenEvent = some .overrun ∨ s.takenEvent = some .noIndex
  | .wrStream, .idle =>
    (s.fetched = some .fluxEos ∧ s.strm.wrTai = false) ∨ ∃ i, s.fetched = some i ∧ malformedByte i = some 0
  | .wrStream, .wrTail => s.fetched = some .fluxEos ∧ s.strm.wrTai = true
  | .wrStream, .wrDrain =>
    (∃ i b, s.fetched = some i ∧ malformedByte i = some b ∧ b ≠ 0) ∨
    (s.takenEvent = some .underrun ∧ s.env.rxq = []) ∨ (∃ d, s.takenEvent = some (.index d) ∧ s.strm.wrTai = true)
  | .wrDrain, .idle => s.takenByte .wrDrain = some 0
  | .wrTail, .idle => (∃ d, s.takenEvent = some (.index d)) ∨ s.takenEvent = some .noIndex
  | .src, .idle => s.strm.xferLeft = 1 ∧ s.engineTurn ≠ none
  | .sink, .idle => s.strm.xferLeft = 1 ∧ ∃ b, s.takenByte .sink = some b
  | _, _ => False

/-! ### Captured and replayed streams -/

/-- One element of a flux stream: an interval, or an index marker. -/
inductive FluxItem where
  | interval (t : Nat)
  | index (d : Nat)
  deriving DecidableEq, Repr

/-- The element can be encoded (R201, R202). -/
def FluxItem.ok : FluxItem → Bool
  | .interval t => decide (1 ≤ t ∧ t ≤ tickMax)
  | .index d => decide (d ≤ tickMax)

/-- Its encoding (R200, R202). -/
def FluxItem.bytes : FluxItem → List Byte
  | .interval t => enc t
  | .index d => encIndex d

/-- What the decoder yields for it (R205). -/
def FluxItem.yield : FluxItem → Yield
  | .interval t => .interval t
  | .index d => .index d

/-- The event that captures it (R13). -/
def FluxItem.event : FluxItem → Event
  | .interval t => .edge t
  | .index d => .index d

/-- The calls that replaying it makes (R238, R240). -/
def FluxItem.calls : FluxItem → List ActCall
  | .interval t => [.play t]
  | .index _ => []

/-- The ticks it moves the cursor by (R228, R229). -/
def FluxItem.ticks : FluxItem → Nat
  | .interval t => t
  | .index _ => 0

/-- It is an index marker. -/
def FluxItem.isIndex : FluxItem → Bool
  | .interval _ => false
  | .index _ => true

/-- The index-time table after a read stream has captured some elements, `k` pulses and `cum` ticks before them
(R228, R229). -/
def timesAfter : Nat → U32 → List FluxItem → List U32 → List U32
  | _, _, [], table => table
  | k, cum, .interval t :: rest, table => timesAfter k (cum + BitVec.ofNat 32 t) rest table
  | k, cum, .index d :: rest, table => timesAfter (k + 1) cum rest (table.set k (cum + BitVec.ofNat 32 d))

/-- The bytes of a stream's elements, in order. -/
def fluxBytes (items : List FluxItem) : List Byte := items.flatMap FluxItem.bytes

/-- Only the engine's own turns follow, and no `CLEAR_COMMS` is pending. -/
def State.quiet (s : State) : Bool := decide (s.env.sched = [] ∧ s.dev.clearPending = false)

/-- `n` steps, stopping at the first that does not answer a next state. -/
def runSteps : Nat → State → Host.Outcome State Fault Refusal
  | 0, s => .next s
  | n + 1, s =>
    match step s with
    | .next t => runSteps n t
    | .fault r => .fault r
    | .refused r => .refused r

/-- The meanings of a list of instructions, one after the other. -/
def execAll : List Instr → State → Host.Outcome State Fault Refusal
  | [], s => .next s
  | i :: rest, s =>
    match exec i s with
    | .next t => execAll rest t
    | .fault r => .fault r
    | .refused r => .refused r

/-- The modes that accept an event, `rxq` being `RXQ`: an underrun only while no byte waits (R13). -/
def accepts (m : Mode) (rxq : List Byte) : Event → Bool
  | .edge _ => decide (m = .rdStream)
  | .index _ => decide (m = .rdStream ∨ m = .wrStream ∨ m = .wrTail)
  | .overrun => decide (m = .rdStream)
  | .noIndex => decide (m = .rdStream ∨ m = .wrTail)
  | .underrun => decide (m = .wrStream ∧ rxq = [])

/-- The device registers that an instruction may write, all others being kept (R53; for the tokens R238 to R245; for
the control channel R275). -/
def writesOnly (i : Instr) (d e : Device) : Prop :=
  match i with
  | .seek _ => e = { d with cyl := e.cyl }
  | .side _ => e = { d with side := e.side }
  | .setParams _ _ => e = { d with delay := e.delay }
  | .motor _ _ => e = { d with motor := e.motor }
  | .select _ => e = { d with sel := e.sel }
  | .deselect => e = { d with sel := e.sel }
  | .setBusType _ => e = { d with busType := e.busType, sel := e.sel }
  | .setPin _ _ => e = { d with pin := e.pin }
  | .reset => e.clearPending = d.clearPending
  | .readFlux _ => e = { d with capValid := e.capValid, idxTime := e.idxTime }
  | .fluxEos => e = { d with fluxStatus := e.fluxStatus, bwMin := e.bwMin, bwMax := e.bwMax }
  | .fluxMed _ _ => e = { d with fluxStatus := e.fluxStatus }
  | .fluxIndex _ => e = { d with fluxStatus := e.fluxStatus }
  | .fluxLong _ => e = { d with fluxStatus := e.fluxStatus }
  | .fluxReserved _ => e = { d with fluxStatus := e.fluxStatus }
  | .ctrlClearComms => e = { d with clearPending := e.clearPending }
  | .getInfo _ => e = d
  | .getParams _ _ => e = d
  | .getFluxStatus => e = d
  | .getIndexTimes _ _ => e = d
  | .switchFwMode _ => e = d
  | .writeFlux _ => e = d
  | .eraseFlux _ => e = d
  | .sourceBytes _ => e = d
  | .sinkBytes _ => e = d
  | .reserved01 _ => e = d
  | .unknown14to17 _ _ => e = d
  | .unknown18to1F _ _ => e = d
  | .unknown20to3F _ _ => e = d
  | .unknown40to7F _ _ => e = d
  | .unknown80toFF _ _ => e = d
  | .badLength _ _ => e = d
  | .fluxShort _ => e = d
  | .ctrlNormal _ => e = d

end Sys2Proof.Machine
end

