-- ==== Sys2Proof/Certificates/Slice0/Obligations.lean ====
section
/-!
DEFINITION. The statements about the model, each an `Obligations.<Name>`; OBLIGATIONS.json gives their tiers and the
rules they formalise. What a command leaves is written with `State.answered`, `State.refused` and `State.started` of
Safety.lean: each is the whole next state, so that an equation with one of them is the instruction's frame too.
-/

open Sys2Proof Sys2Proof.Machine

/-! ### Encoding -/

/-- Decoding the encoding of any well-formed instruction, of any of the three wires, gives it back, every operand at
every value. -/
def Obligations.DecodeOfEncodeIsIdentity : Prop :=
  ∀ i : Instr, i.wf = true → decode (encode i) = .ok i

/-- What decodes to an instruction is that instruction's encoding, and the instruction is well formed: no two bit
strings of a wire mean the same instruction. -/
def Obligations.EncodeOfDecodeIsIdentity : Prop :=
  ∀ (w : Wire) (i : Instr), decode w = .ok i → encode i = w ∧ i.wf = true

/-- The two shape checks of dispatch, the known opcodes and legal lengths being read from the table of R92: a known
opcode at a legal length is a command and runs; at another length the packet is refused; an unknown opcode is
refused. -/
def Obligations.ShapeChecksOfDispatch : Prop :=
  ∀ (op : Byte) (body : List Byte) (s : State), body.length ≤ 253 →
    (known op = true → explen op (body.length + 2) = true →
      ∃ i, decodePacket (op :: byteOf (body.length + 2) :: body) = .ok i ∧ leadingAcks i ≠ [.badCommand] ∧
        dispatch (op :: byteOf (body.length + 2) :: body) s = exec i s) ∧
    (known op = true → explen op (body.length + 2) = false →
      dispatch (op :: byteOf (body.length + 2) :: body) s = .next (s.refused .badCommand)) ∧
    (known op = false → dispatch (op :: byteOf (body.length + 2) :: body) s = .next (s.refused .badCommand))

/-- Words written out from the encodings of the spec, one for each wire and format. -/
def Obligations.WrittenWordsDecode : Prop :=
  decode (.packet [0x02, 0x03, 0x05]) = .ok (.seek 5) ∧
  decode (.packet [0x0F, 0x04, 0x02, 0x01]) = .ok (.setPin 2 1) ∧
  decode (.packet [0x11, 0x06, 0x40, 0x19, 0x01, 0x00]) = .ok (.eraseFlux 72000) ∧
  decode (.packet [0x07, 0x02]) = .ok (.readFlux none) ∧
  decode (.packet [0x05, 0x00]) = .ok (.badLength 5 0) ∧
  decode (.packet [0xFF, 0x05, 0xAA, 0xBB, 0xCC]) = .ok (.unknown80toFF 0xFF [0xAA, 0xBB, 0xCC]) ∧
  decode (.token [0xFA, 0x33]) = .ok (.fluxMed 0xFA 0x33) ∧
  decode (.token [0xFF, 0x02, 0xA1, 0x1F, 0x01, 0x01]) = .ok (.fluxLong [0xA1, 0x1F, 0x01, 0x01]) ∧
  decode (.ctrl 10000) = .ok .ctrlClearComms

/-- N28 and its inverse. -/
def Obligations.N28AndItsInverse : Prop :=
  (∀ n : Nat, n < 2 ^ 28 → un28 (n28 n) = n) ∧
  (∀ a : List Byte, a.length = 4 → (∀ b ∈ a, b.toNat % 2 = 1) → n28 (un28 a) = a)

/-- The canonical encodings hold no byte `00`, and no interval's encoding is a prefix of another's. -/
def Obligations.EncodingsDelimitThemselves : Prop :=
  (∀ x : FluxItem, x.ok = true → (0 : Byte) ∉ x.bytes) ∧
  (∀ t u : Nat, 1 ≤ t → t ≤ tickMax → 1 ≤ u → u ≤ tickMax → enc t <+: enc u → t = u)

/-- A byte of the decoder keeps its phase well formed and yields values in range; and the token the byte completes,
and its meaning, are what `dec_step` yields: an interval is played, an index marker is nothing, `END` is the
terminator, and `BAD` is the malformed case. -/
def Obligations.TokenMeaningsFollowTheDecoder : Prop :=
  ∀ (p : DecPhase) (b : Byte) (s : State), p.wf = true →
    (decStep p b).1.wf = true ∧
    match (decStep p b).2 with
    | .none => decToken p b = none
    | .interval t =>
      1 ≤ t ∧ t ≤ tickMax ∧ ∃ i, decToken p b = some i ∧ exec i s = .next (s.call (.play t))
    | .index d => d ≤ tickMax ∧ ∃ i, decToken p b = some i ∧ exec i s = .next s
    | .eos => decToken p b = some .fluxEos
    | .bad c => c = b ∧ ∃ i, decToken p b = some i ∧ malformedByte i = some b ∧ exec i s = .next (s.fluxBad b)

/-- The round trip of the codec: a sequence of intervals and index markers, encoded and ended by the terminator,
decodes to itself and `END`. -/
def Obligations.FluxStreamRoundTrip : Prop :=
  ∀ items : List FluxItem, (∀ x ∈ items, x.ok = true) →
    decodeStream .tok (fluxBytes items ++ [0x00]) = items.map FluxItem.yield ++ [.eos]

/-! ### Steps -/

/-- A step runs the decoded instruction. On the engine's own turn, with no `CLEAR_COMMS` pending, the byte that
completes a packet in `IDLE` makes the step the packet's instruction, with the byte taken from `RXQ` and accumulated
and `rx_cnt` cleared; the byte that completes a token in `WR_STREAM` makes it the token's, with the byte taken and
counted and the decoder's phase advanced; a control-channel write makes it the write's. An event whose turn it is, with
no `CLEAR_COMMS` pending, is consumed by the step: that is `State.onEvent`. -/
def Obligations.StepRunsDecodedInstruction : Prop :=
  (∀ (s s1 : State) (b : Byte) (rest P : List Byte) (i : Instr), s.engineTurn = some s1 → s.frm.mode = .idle →
    s.env.rxq = b :: rest → (s1.accumulate b).frm.complete = some P → decodePacket P = .ok i →
    step s = exec i ((State.accumulate b { s1 with env := { s1.env with rxq := rest } }).setRxCnt 0)) ∧
  (∀ (s s1 : State) (b : Byte) (rest : List Byte) (i : Instr), s.engineTurn = some s1 → s.frm.mode = .wrStream →
    s.env.rxq = b :: rest → decToken s.strm.dec b = some i →
    step s = exec i (State.decodeByte b { s1 with env := { s1.env with rxq := rest } })) ∧
  (∀ (s : State) (v : U32) (rest : List Turn), s.env.sched = .ctrl v :: rest →
    step s = exec (decodeCtrl v) { s with env := { s.env with sched := rest } }) ∧
  (∀ (s : State) (e : Event) (rest : List Turn), s.dev.clearPending = false → s.env.sched = .event e :: rest →
    step s = .next (State.onEvent e { s with env := { s.env with sched := rest } }))

/-- The framer: from a packet boundary in `IDLE`, as many steps as the packet has bytes consume exactly those bytes,
and the last of them dispatches the packet, whatever its opcode. -/
def Obligations.PacketBytesRunDispatch : Prop :=
  ∀ (P rest : List Byte) (s : State), 2 ≤ P.length → (P.getD 1 0).toNat = P.length → s.quiet = true →
    s.frm.mode = .idle → s.frm.rxCnt = 0 → s.frm.cbuf.length = 255 → s.env.rxq = P ++ rest →
    runSteps P.length s = dispatch P
      { s with
        frm := { s.frm with cbuf := P ++ s.frm.cbuf.drop P.length }
        env := { s.env with rxq := rest } }

/-- A length byte below 2 is refused when it arrives: two bytes are consumed and no others. -/
def Obligations.BadLengthByteRefused : Prop :=
  ∀ (op len : Byte) (rest : List Byte) (s : State), len.toNat < 2 → s.quiet = true → s.frm.mode = .idle →
    s.frm.rxCnt = 0 → s.frm.cbuf.length = 255 → s.env.rxq = op :: len :: rest →
    runSteps 2 s = .next (State.refused
      { s with
        frm := { s.frm with cbuf := op :: len :: s.frm.cbuf.drop 2 }
        env := { s.env with rxq := rest } } .badCommand)

/-- The waiting states: with no input the engine makes no change, and in `RD_STREAM` and `WR_TAIL` it consumes no
byte. -/
def Obligations.WaitingStatesKeepEverything : Prop :=
  ∀ s : State, s.quiet = true →
    (s.env.rxq = [] ∧ s.frm.mode ≠ .src) ∨ s.frm.mode = .rdStream ∨ s.frm.mode = .wrTail →
    step s = .next s

/-- While `CLEAR_COMMS` is pending the engine's next step is its service, whatever the mode, the queue and the event
raised. -/
def Obligations.ClearCommsHasPriority : Prop :=
  ∀ s : State, s.dev.clearPending = true →
    (s.env.sched = [] → step s = .next s.clearComms) ∧
    (∀ rest, s.env.sched = .engine :: rest →
      step s = .next (State.clearComms { s with env := { s.env with sched := rest } })) ∧
    (∀ e rest, s.env.sched = .event e :: rest → step s = .next s.clearComms)

/-- The service of `CLEAR_COMMS`, in every mode. -/
def Obligations.ClearCommsServiceEffects : Prop :=
  ∀ s : State,
    s.clearComms.cfg = s.cfg ∧
    s.clearComms.dev = { s.dev.withDefaults s.cfg with clearPending := false } ∧
    s.clearComms.frm = { s.frm with mode := .idle, rxCnt := 0 } ∧
    s.clearComms.env.rxq = [] ∧ s.clearComms.env.txPending = [] ∧
    s.clearComms.env.tx = s.env.tx ++ [.reset] ∧ s.clearComms.env.sched = s.env.sched ∧
    (s.frm.mode = .rdStream → s.clearComms.env.act = s.env.act ++ [.captureStop, .resetDefaults]) ∧
    (s.frm.mode = .wrStream ∨ s.frm.mode = .wrTail →
      s.clearComms.env.act = s.env.act ++ [.playStop, .resetDefaults]) ∧
    (s.frm.mode = .idle ∨ s.frm.mode = .wrDrain ∨ s.frm.mode = .src ∨ s.frm.mode = .sink →
      s.clearComms.env.act = s.env.act ++ [.resetDefaults])

/-- From every state, `ctrl_write(10000)` and one engine step reach `IDLE` at a packet boundary with `RXQ` empty and
the defaults restored. -/
def Obligations.ClearWriteAndOneStepRecover : Prop :=
  ∀ s : State, s.env.sched = [.ctrl 10000] →
    ∃ t, runSteps 2 s = .next t ∧ t.frm.mode = .idle ∧ t.frm.rxCnt = 0 ∧ t.env.rxq = [] ∧
      t.dev = { s.dev.withDefaults s.cfg with clearPending := false }

/-- The escape hatch: from every state, in the middle of any stream or packet, `ctrl_write(10000)`, the service, and
then the bytes of a packet dispatch that packet, as the first one, whatever bytes were waiting. -/
def Obligations.PacketAfterClearCommsDispatches : Prop :=
  ∀ (P : List Byte) (s : State), 2 ≤ P.length → (P.getD 1 0).toNat = P.length → s.frm.cbuf.length = 255 →
    s.env.sched = .ctrl 10000 :: .engine :: P.map .hostByte →
    ∃ t, runSteps (2 + P.length + P.length) s = dispatch P t ∧ t.frm.mode = .idle ∧ t.frm.rxCnt = 0 ∧
      t.env.rxq = [] ∧ t.env.txPending = [] ∧ t.env.tx = s.env.tx ++ [.reset] ∧
      t.dev = { s.dev.withDefaults s.cfg with clearPending := false }

/-! ### The whole machine -/

/-- The environment's own turns: the host appends a byte to `RXQ` or takes bytes of `TX`, and power-on reset writes
every register of the block to its reset value with the streams and traces empty. The values of `cbuf` and of the
stream registers, which R50 leaves unspecified, are the model's choice (log entries 1 and 2), and so is what becomes of
the environment's own fields (log entry 20). -/
def Obligations.EnvironmentTurns : Prop :=
  ∀ (s : State) (rest : List Turn),
    (∀ b, s.env.sched = .hostByte b :: rest →
      step s = .next { s with env := { s.env with sched := rest, rxq := s.env.rxq ++ [b] } }) ∧
    (∀ n, s.env.sched = .hostTake n :: rest →
      step s = .next { s with env := { s.env with sched := rest, txPending := s.env.txPending.drop n } }) ∧
    (s.env.sched = .powerOn :: rest → step s = .next
      { cfg := s.cfg
        dev := { s.dev.withDefaults s.cfg with
          fluxStatus := .okay, capValid := false, clearPending := false
          idxTime := List.replicate s.cfg.maxIndex.toNat 0, bwMin := ⟨0, 0⟩, bwMax := ⟨0, 0⟩ }
        frm := { mode := .idle, rxCnt := 0, cbuf := List.replicate 255 0 }
        strm := { rdTarget := 0, rdSeen := 0, rdCum := 0, wrTai := false, wrResult := .okay, xferLeft := 0,
                  xferBytes := 0, dec := .tok }
        env := { s.env with rxq := [], tx := [], txPending := [], act := [], sched := rest } })

/-- Nothing is fatal: every step of every state answers a next state. -/
def Obligations.EveryStepAnswersNext : Prop := ∀ s : State, ∃ t, step s = .next t

/-- The invariant `State.Inv` holds at reset: under the reference configuration, and at power-on reset under every legal
configuration. The values of registers that the spec leaves unspecified at reset (log entries 1 and 2) are the
model's. -/
def Obligations.InvHoldsAtReset : Prop :=
  State.reset.Inv = true ∧ ∀ c : Config, c.wf = true → (State.por c).Inv = true

/-- Every step, of every agent, keeps the invariant `State.Inv`: the selected unit exists and has a bus; the register files
have their sizes; the framer is at a packet boundary outside `IDLE` and inside an incomplete packet in it; the index
table is in range; the statuses are legal; minimum throughput is at most maximum throughput. -/
def Obligations.EveryStepKeepsInv : Prop :=
  ∀ s t : State, s.Inv = true → step s = .next t → t.Inv = true

/-- Every change of the mode register is one that the table of R132 lists, from its cause. -/
def Obligations.ModeChangesAreListed : Prop :=
  ∀ s t : State, step s = .next t → t.frm.mode = s.frm.mode ∨ ModeChange s t.frm.mode

/-- `S.flux_status` is written only by the completion of a read or write stream, by CMD_RESET and by power-on
reset. -/
def Obligations.FluxStatusWriters : Prop :=
  ∀ s t : State, step s = .next t → t.dev.fluxStatus ≠ s.dev.fluxStatus →
    s.powersOn = true ∨ s.fetched = some .reset ∨
    (s.servicesClear = false ∧ t.frm.mode = .idle ∧
      (s.frm.mode = .rdStream ∨ s.frm.mode = .wrStream ∨ s.frm.mode = .wrDrain ∨ s.frm.mode = .wrTail))

/-- The bandwidth statistics change only by CMD_RESET, by power-on reset, and by the end of a transfer that
completed: a source or sink transfer, or a stream that ended `OKAY`. -/
def Obligations.BandwidthStatsWriters : Prop :=
  ∀ s t : State, step s = .next t → t.dev.bwMin ≠ s.dev.bwMin ∨ t.dev.bwMax ≠ s.dev.bwMax →
    s.powersOn = true ∨ s.fetched = some .reset ∨
    (s.servicesClear = false ∧ t.frm.mode = .idle ∧
      (s.frm.mode = .src ∨ s.frm.mode = .sink ∨ (s.frm.mode ≠ .idle ∧ t.dev.fluxStatus = .okay)))

/-- The latch: `S.clear_pending` is set only by `ctrl_write(10000)`, and cleared only by the service and by power-on
reset. -/
def Obligations.ClearPendingWriters : Prop :=
  ∀ s t : State, step s = .next t →
    (s.dev.clearPending = true → t.dev.clearPending = false → s.servicesClear = true ∨ s.powersOn = true) ∧
    (s.dev.clearPending = false → t.dev.clearPending = true → s.fetched = some .ctrlClearComms)

/-- The configuration, and DeviceInfo with it, is constant: no step of any agent changes it. -/
def Obligations.ConfigurationIsConstant : Prop :=
  ∀ s t : State, step s = .next t → t.cfg = s.cfg

/-- The writer matrix: each instruction writes at most the device registers listed for it. -/
def Obligations.WriterMatrixOfDeviceRegisters : Prop :=
  ∀ (i : Instr) (s t : State), exec i s = .next t → writesOnly i s.dev t.dev

/-- Every packet's instruction emits exactly one leading ack, of those listed for it, then after `OKAY` its payload,
after another ack nothing, then the flush marker. -/
def Obligations.OneLeadingAckPerPacket : Prop :=
  ∀ (i : Instr) (s t : State), isPacket i = true → fluxStatusOk s.dev.fluxStatus = true → exec i s = .next t →
    ∃ (c : AckCode) (payload : List Byte), c ∈ leadingAcks i ∧ (c ≠ .okay → payload = []) ∧
      t.env.tx = s.env.tx ++ .byte c.toByte :: payload.map .byte ++ [.flush] ∧
      t.env.txPending = s.env.txPending ++ c.toByte :: payload

/-- A refusal is precise: but for the ack byte, the framer's return to `IDLE` and the collaborator's call that
reported a physical error, the state is as it was. -/
def Obligations.RefusalIsPrecise : Prop :=
  ∀ (i : Instr) (s t : State) (c : AckCode), isPacket i = true → i ≠ .getFluxStatus → exec i s = .next t →
    c ≠ .okay → t.env.tx = s.env.tx ++ [.byte c.toByte, .flush] →
    t.cfg = s.cfg ∧ t.dev = s.dev ∧ t.strm = s.strm ∧ t.frm = { s.frm with mode := .idle, rxCnt := 0 } ∧
      t.env.rxq = s.env.rxq ∧ t.env.sched = s.env.sched ∧
      ∃ calls, t.env.act = s.env.act ++ calls ∧ refusalCalls c calls

/-- `bw_sample`: a void sample changes nothing; any other leaves extrema that bound the sample and the old extrema,
each of them the sample or the old pair, and changes nothing else. -/
def Obligations.BwSampleKeepsExtrema : Prop :=
  ∀ (b u : U32) (s : State), bwOk s.dev.bwMin s.dev.bwMax = true →
    (b = 0 ∨ u = 0 → s.bwSample b u = s) ∧
    (b ≠ 0 → u ≠ 0 → ∃ mn mx : BwPair,
      s.bwSample b u = { s with dev := { s.dev with bwMin := mn, bwMax := mx } } ∧ bwOk mn mx = true ∧
      mn.bytes.toNat * u.toNat ≤ b.toNat * mn.usecs.toNat ∧ b.toNat * mx.usecs.toNat ≤ mx.bytes.toNat * u.toNat ∧
      (s.dev.bwMin.usecs = 0 → mn = ⟨b, u⟩ ∧ mx = ⟨b, u⟩) ∧
      (s.dev.bwMin.usecs ≠ 0 →
        (mn = s.dev.bwMin ∨ mn = ⟨b, u⟩) ∧ (mx = s.dev.bwMax ∨ mx = ⟨b, u⟩) ∧
        mn.bytes.toNat * s.dev.bwMin.usecs.toNat ≤ s.dev.bwMin.bytes.toNat * mn.usecs.toNat ∧
        s.dev.bwMax.bytes.toNat * mx.usecs.toNat ≤ mx.bytes.toNat * s.dev.bwMax.usecs.toNat))

/-! ### Information and parameters -/

/-- CMD_GET_INFO. -/
def Obligations.GetInfoResult : Prop :=
  ∀ (idx : Byte) (s : State), decode (.packet [0x00, 0x03, idx]) = .ok (.getInfo idx) ∧
    (idx = 0 → exec (.getInfo idx) s = .next (s.answered s.dev [] .okay
      ([s.cfg.fwMajor, s.cfg.fwMinor, s.cfg.maxIndex, 19] ++ le32 s.cfg.sampleFreq ++ le16 s.cfg.hwType ++
        List.replicate 22 0))) ∧
    (idx = 1 → exec (.getInfo idx) s = .next (s.answered s.dev [] .okay
      (le32 s.dev.bwMin.bytes ++ le32 s.dev.bwMin.usecs ++ le32 s.dev.bwMax.bytes ++ le32 s.dev.bwMax.usecs ++
        List.replicate 16 0))) ∧
    (idx ≠ 0 → idx ≠ 1 → exec (.getInfo idx) s = .next (s.refused .badCommand))

/-- CMD_GET_PARAMS and CMD_SET_PARAMS: the whole ten-byte block of index 0, or a refusal. -/
def Obligations.ParameterCommandsResult : Prop :=
  ∀ (idx nr : Byte) (data : List Byte) (s : State), data.length ≤ 252 →
    decode (.packet [0x05, 0x04, idx, nr]) = .ok (.getParams idx nr) ∧
    decode (.packet (0x04 :: byteOf (3 + data.length) :: idx :: data)) = .ok (.setParams idx data) ∧
    (idx = 0 ∧ nr = 10 → exec (.getParams idx nr) s = .next (s.answered s.dev [] .okay s.dev.delay)) ∧
    (idx ≠ 0 ∨ nr ≠ 10 → exec (.getParams idx nr) s = .next (s.refused .badCommand)) ∧
    (idx = 0 ∧ data.length = 10 →
      exec (.setParams idx data) s = .next (s.answered { s.dev with delay := data } [] .okay [])) ∧
    (idx ≠ 0 ∨ data.length ≠ 10 → exec (.setParams idx data) s = .next (s.refused .badCommand))

/-- The round trip of the parameter block: after CMD_SET_PARAMS, and any instructions that are neither CMD_SET_PARAMS
nor CMD_RESET, CMD_GET_PARAMS returns exactly the bytes written. -/
def Obligations.ParameterBlockRoundTrip : Prop :=
  ∀ (data : List Byte) (between : List Instr) (s t u : State), data.length = 10 →
    exec (.setParams 0 data) s = .next t →
    (∀ i ∈ between, i ≠ .reset ∧ ∀ j d, i ≠ .setParams j d) → execAll between t = .next u →
    exec (.getParams 0 10) u = .next (u.answered u.dev [] .okay data)

/-- CMD_GET_FLUX_STATUS: the stored status is the leading ack, nothing follows, and it is not cleared. -/
def Obligations.GetFluxStatusResult : Prop :=
  ∀ s : State, decode (.packet [0x09, 0x02]) = .ok .getFluxStatus ∧
    exec .getFluxStatus s = .next (s.answered s.dev [] s.dev.fluxStatus [])

/-- CMD_GET_INDEX_TIMES; the sum of its check does not wrap. -/
def Obligations.GetIndexTimesResult : Prop :=
  ∀ (first nr : Byte) (s : State), decode (.packet [0x0A, 0x04, first, nr]) = .ok (.getIndexTimes first nr) ∧
    (first.toNat + nr.toNat ≤ s.cfg.maxIndex.toNat →
      exec (.getIndexTimes first nr) s = .next (s.answered s.dev [] .okay
        ((List.range nr.toNat).flatMap fun i =>
          le32 (if s.dev.capValid = true then s.dev.idxTime.getD (first.toNat + i) 0 else 0)))) ∧
    (first.toNat + nr.toNat > s.cfg.maxIndex.toNat →
      exec (.getIndexTimes first nr) s = .next (s.refused .badCommand))

/-! ### Drive control -/

/-- CMD_SEEK, for both answers of the collaborator; the call and the drawn answer are `State.actSeek`, which changes
nothing else. -/
def Obligations.SeekResult : Prop :=
  ∀ (cyl : Byte) (s : State), decode (.packet [0x02, 0x03, cyl]) = .ok (.seek cyl) ∧
    (s.dev.sel = none → exec (.seek cyl) s = .next (s.refused .noUnit)) ∧
    (∀ u, s.dev.sel = some u →
      (∃ ans n, (s.actSeek u (s.dev.cyl.getD u.toNat 0) cyl).2 = { s with env := { s.env with
        act := s.env.act ++ [.seek u (s.dev.cyl.getD u.toNat 0) cyl], answers := ans, draws := n } }) ∧
      ((s.actSeek u (s.dev.cyl.getD u.toNat 0) cyl).1 = .ok →
        exec (.seek cyl) s = .next ((s.actSeek u (s.dev.cyl.getD u.toNat 0) cyl).2.answered
          { s.dev with cyl := s.dev.cyl.set u.toNat cyl } [] .okay [])) ∧
      ((s.actSeek u (s.dev.cyl.getD u.toNat 0) cyl).1 = .noTrk0 →
        exec (.seek cyl) s = .next ((s.actSeek u (s.dev.cyl.getD u.toNat 0) cyl).2.refused .noTrk0)))

/-- CMD_SIDE. -/
def Obligations.SideResult : Prop :=
  ∀ (sd : Byte) (s : State), decode (.packet [0x03, 0x03, sd]) = .ok (.side sd) ∧
    (s.dev.sel = none → exec (.side sd) s = .next (s.refused .noUnit)) ∧
    (∀ u, s.dev.sel = some u →
      (sd.toNat ≤ 1 → exec (.side sd) s = .next (s.answered
        { s.dev with side := s.dev.side.set u.toNat (decide (sd = 1)) } [.side (decide (sd = 1))] .okay [])) ∧
      (sd.toNat > 1 → exec (.side sd) s = .next (s.refused .badCommand)))

/-- CMD_MOTOR. -/
def Obligations.MotorResult : Prop :=
  ∀ (drive on : Byte) (s : State), decode (.packet [0x06, 0x04, drive, on]) = .ok (.motor drive on) ∧
    (drive.toNat ≤ s.cfg.maxUnit.toNat → exec (.motor drive on) s = .next (s.answered
      { s.dev with motor := s.dev.motor.set drive.toNat (decide (on ≠ 0)) } [.motor drive (decide (on ≠ 0))]
      .okay [])) ∧
    (drive.toNat > s.cfg.maxUnit.toNat → exec (.motor drive on) s = .next (s.refused .badUnit))

/-- CMD_SELECT and CMD_DESELECT: `NO_BUS` before `BAD_UNIT`; the unit already selected makes no call; another one is
deselected first. -/
def Obligations.SelectionCommandsResult : Prop :=
  ∀ (drive : Byte) (s : State),
    decode (.packet [0x0C, 0x03, drive]) = .ok (.select drive) ∧ decode (.packet [0x0D, 0x02]) = .ok .deselect ∧
    (s.dev.busType = .none → exec (.select drive) s = .next (s.refused .noBus)) ∧
    (s.dev.busType ≠ .none → drive.toNat > s.cfg.maxUnit.toNat →
      exec (.select drive) s = .next (s.refused .badUnit)) ∧
    (s.dev.busType ≠ .none → drive.toNat ≤ s.cfg.maxUnit.toNat →
      (s.dev.sel = some drive → exec (.select drive) s = .next (s.answered s.dev [] .okay [])) ∧
      (s.dev.sel = none → exec (.select drive) s = .next (s.answered
        { s.dev with sel := some drive } [.select drive] .okay [])) ∧
      (∀ u, s.dev.sel = some u → u ≠ drive → exec (.select drive) s = .next (s.answered
        { s.dev with sel := some drive } [.deselect, .select drive] .okay []))) ∧
    (s.dev.sel = none → exec .deselect s = .next (s.answered s.dev [] .okay [])) ∧
    (∀ u, s.dev.sel = some u →
      exec .deselect s = .next (s.answered { s.dev with sel := none } [.deselect] .okay []))

/-- CMD_SET_BUS_TYPE: any selected unit is deselected, also when the type does not change. -/
def Obligations.SetBusTypeResult : Prop :=
  ∀ (type : Byte) (s : State), decode (.packet [0x0E, 0x03, type]) = .ok (.setBusType type) ∧
    (type.toNat > 2 → exec (.setBusType type) s = .next (s.refused .badCommand)) ∧
    (∀ t : BusType, (type = 0 ∧ t = .none) ∨ (type = 1 ∧ t = .ibmpc) ∨ (type = 2 ∧ t = .shugart) →
      (s.dev.sel = none → exec (.setBusType type) s = .next (s.answered
        { s.dev with busType := t } [.bus t] .okay [])) ∧
      (∀ u, s.dev.sel = some u → exec (.setBusType type) s = .next (s.answered
        { s.dev with sel := none, busType := t } [.deselect, .bus t] .okay [])))

/-- CMD_SET_PIN: `NO_UNIT` before `BAD_PIN`; the level of the pin becomes `level ≠ 0`, the other pins are kept. -/
def Obligations.SetPinResult : Prop :=
  ∀ (pin level : Byte) (s : State), decode (.packet [0x0F, 0x04, pin, level]) = .ok (.setPin pin level) ∧
    (s.dev.sel = none → exec (.setPin pin level) s = .next (s.refused .noUnit)) ∧
    (s.dev.sel ≠ none → pin ∉ s.cfg.pins → exec (.setPin pin level) s = .next (s.refused .badPin)) ∧
    (s.dev.sel ≠ none → pin ∈ s.cfg.pins → exec (.setPin pin level) s = .next (s.answered
      { s.dev with pin := s.dev.pin.map fun r => if r.id = pin then ⟨pin, decide (level ≠ 0)⟩ else r }
      [.pin pin (decide (level ≠ 0))] .okay []))

/-! ### System commands, refused packets, control channel -/

/-- CMD_RESET: it always answers `OKAY`, and everything marked in its column of R52 takes its reset value. -/
def Obligations.ResetResult : Prop :=
  ∀ s : State, decode (.packet [0x10, 0x02]) = .ok .reset ∧
    exec .reset s = .next (s.answered
      { s.dev.withDefaults s.cfg with
        fluxStatus := .okay
        capValid := false
        idxTime := List.replicate s.cfg.maxIndex.toNat 0
        bwMin := ⟨0, 0⟩
        bwMax := ⟨0, 0⟩ } [.resetDefaults] .okay [])

/-- CMD_SWITCH_FW_MODE. -/
def Obligations.SwitchFwModeResult : Prop :=
  ∀ (mode : Byte) (s : State), decode (.packet [0x0B, 0x03, mode]) = .ok (.switchFwMode mode) ∧
    (mode = 0 → exec (.switchFwMode mode) s = .next (s.answered s.dev [.fwMode .bootloader] .okay [])) ∧
    (mode = 1 → exec (.switchFwMode mode) s = .next (s.answered s.dev [.fwMode .normal] .okay [])) ∧
    (mode.toNat > 1 → exec (.switchFwMode mode) s = .next (s.refused .badCommand))

/-- The packets of no command: reserved opcode 1, unknown opcodes, a length byte below 2. Each is refused with
`BAD_COMMAND`, whatever its other bytes, and changes nothing else. -/
def Obligations.IllegalPacketsRefused : Prop :=
  ∀ (op len : Byte) (body : List Byte) (s : State),
    exec (.reserved01 body) s = .next (s.refused .badCommand) ∧
    exec (.unknown14to17 op body) s = .next (s.refused .badCommand) ∧
    exec (.unknown18to1F op body) s = .next (s.refused .badCommand) ∧
    exec (.unknown20to3F op body) s = .next (s.refused .badCommand) ∧
    exec (.unknown40to7F op body) s = .next (s.refused .badCommand) ∧
    exec (.unknown80toFF op body) s = .next (s.refused .badCommand) ∧
    exec (.badLength op len) s = .next (s.refused .badCommand)

/-- `ctrl_write(v)`: 10000 sets the latch, every other value does nothing. -/
def Obligations.ControlWriteResult : Prop :=
  ∀ (v : U32) (s : State),
    (v = 10000 → decode (.ctrl v) = .ok .ctrlClearComms ∧
      exec .ctrlClearComms s = .next { s with dev := { s.dev with clearPending := true } }) ∧
    (v ≠ 10000 → decode (.ctrl v) = .ok (.ctrlNormal v) ∧ exec (.ctrlNormal v) s = .next s)

/-! ### Flux and throughput commands -/

/-- CMD_READ_FLUX, the field given or left out (default 2). -/
def Obligations.ReadFluxResult : Prop :=
  ∀ (field : Option Byte) (n : Byte) (s : State), field = some n ∨ (field = none ∧ n = 2) →
    decode (.packet [0x07, 0x03, n]) = .ok (.readFlux (some n)) ∧
    decode (.packet [0x07, 0x02]) = .ok (.readFlux none) ∧
    (n = 0 ∨ n.toNat > s.cfg.maxIndex.toNat → exec (.readFlux field) s = .next (s.refused .badCommand)) ∧
    (n ≠ 0 → n.toNat ≤ s.cfg.maxIndex.toNat → exec (.readFlux field) s = .next (s.started
      { s.dev with capValid := false, idxTime := List.replicate s.cfg.maxIndex.toNat 0 }
      { s.strm with rdTarget := n, rdSeen := 0, rdCum := 0, xferBytes := 0 } [.captureStart] .rdStream))

/-- CMD_WRITE_FLUX, the field given or left out (default false), for both answers of the collaborator; the call and
the drawn answer are `State.actWrprot`, which changes nothing else. -/
def Obligations.WriteFluxResult : Prop :=
  ∀ (field : Option Byte) (tai : Bool) (s : State), (∃ b, field = some b ∧ tai = decide (b ≠ 0)) ∨
      (field = none ∧ tai = false) →
    (∀ b, decode (.packet [0x08, 0x03, b]) = .ok (.writeFlux (some b))) ∧
    decode (.packet [0x08, 0x02]) = .ok (.writeFlux none) ∧
    (∃ ans n, s.actWrprot.2 =
      { s with env := { s.env with act := s.env.act ++ [.wrprot], answers := ans, draws := n } }) ∧
    (s.actWrprot.1 = true → exec (.writeFlux field) s = .next (s.actWrprot.2.refused .wrprot)) ∧
    (s.actWrprot.1 = false → exec (.writeFlux field) s = .next (s.actWrprot.2.started s.dev
      { s.strm with wrTai := tai, wrResult := .okay, dec := .tok, xferBytes := 0 } [.playStart tai] .wrStream))

/-- CMD_ERASE_FLUX. -/
def Obligations.EraseFluxResult : Prop :=
  ∀ (b0 b1 b2 b3 : Byte) (ticks : U32) (s : State),
    ticks.toNat = b0.toNat + 2 ^ 8 * b1.toNat + 2 ^ 16 * b2.toNat + 2 ^ 24 * b3.toNat →
    decode (.packet [0x11, 0x06, b0, b1, b2, b3]) = .ok (.eraseFlux ticks) ∧
    (∃ ans n, s.actWrprot.2 =
      { s with env := { s.env with act := s.env.act ++ [.wrprot], answers := ans, draws := n } }) ∧
    (s.actWrprot.1 = true → exec (.eraseFlux ticks) s = .next (s.actWrprot.2.refused .wrprot)) ∧
    (s.actWrprot.1 = false →
      exec (.eraseFlux ticks) s = .next (s.actWrprot.2.answered s.dev [.erase ticks] .okay []))

/-- CMD_SOURCE_BYTES and CMD_SINK_BYTES: a count of 0 leaves the framer in `IDLE`. -/
def Obligations.ThroughputCommandsStart : Prop :=
  ∀ (b0 b1 b2 b3 : Byte) (n : U32) (s : State),
    n.toNat = b0.toNat + 2 ^ 8 * b1.toNat + 2 ^ 16 * b2.toNat + 2 ^ 24 * b3.toNat →
    decode (.packet [0x12, 0x06, b0, b1, b2, b3]) = .ok (.sourceBytes n) ∧
    decode (.packet [0x13, 0x06, b0, b1, b2, b3]) = .ok (.sinkBytes n) ∧
    (n = 0 → exec (.sourceBytes n) s = .next (s.started s.dev
        { s.strm with xferLeft := n, xferBytes := 0 } [] .idle) ∧
      exec (.sinkBytes n) s = .next (s.started s.dev { s.strm with xferLeft := n, xferBytes := 0 } [] .idle)) ∧
    (n ≠ 0 → exec (.sourceBytes n) s = .next (s.started s.dev
        { s.strm with xferLeft := n, xferBytes := 0 } [] .src) ∧
      exec (.sinkBytes n) s = .next (s.started s.dev { s.strm with xferLeft := n, xferBytes := 0 } [] .sink))

/-! ### Tokens -/

/-- The tokens that play an interval or mark an index: the interval's value, and nothing else but the call. -/
def Obligations.WellFormedTokensPlay : Prop :=
  (∀ (b : Byte) (s : State), 1 ≤ b.toNat → b.toNat ≤ 249 →
    exec (.fluxShort b) s = .next { s with env := { s.env with act := s.env.act ++ [.play b.toNat] } }) ∧
  (∀ (b0 b1 : Byte) (s : State), 250 ≤ b0.toNat → b0.toNat ≤ 254 → 1 ≤ b1.toNat →
    exec (.fluxMed b0 b1) s = .next { s with env := { s.env with
      act := s.env.act ++ [.play (250 + (b0.toNat - 250) * 255 + (b1.toNat - 1))] } }) ∧
  (∀ (n : Nat) (s : State), 1 ≤ n → n < 2 ^ 28 →
    exec (.fluxLong (n28 n)) s = .next { s with env := { s.env with act := s.env.act ++ [.play n] } }) ∧
  (∀ (n : Nat) (s : State), n < 2 ^ 28 → exec (.fluxIndex (n28 n)) s = .next s)

/-- The terminator at a token boundary: with terminate-at-index the framer waits in `WR_TAIL`; without, the stream
ends, its status is written, and it takes a bandwidth sample if and only if it ends `OKAY`. The drawn microseconds are
`State.drawUsecs`. -/
def Obligations.TerminatorEndsWriteStream : Prop :=
  ∀ s : State,
    (s.strm.wrTai = true → exec .fluxEos s = .next { s with
      frm := { s.frm with mode := .wrTail }
      env := { s.env with act := s.env.act ++ [.playEnd] } }) ∧
    (s.strm.wrTai = false → ∃ t, exec .fluxEos s = .next t ∧ t.cfg = s.cfg ∧
      t.frm = { s.frm with mode := .idle } ∧ t.env.act = s.env.act ++ [.playEnd] ∧ t.env.rxq = s.env.rxq ∧
      t.env.tx = s.env.tx ∧ t.env.txPending = s.env.txPending ∧ t.env.sched = s.env.sched ∧
      (s.strm.wrResult = .okay →
        t.dev = { (s.bwSample s.strm.xferBytes s.drawUsecs.1).dev with fluxStatus := .okay }) ∧
      (s.strm.wrResult ≠ .okay → t.dev = { s.dev with fluxStatus := s.strm.wrResult }))

/-- A malformed token, whatever its kind: playback stops; a byte `00` ends the stream with `BAD_COMMAND` and no
sample, any other sends the framer to `WR_DRAIN`. -/
def Obligations.MalformedTokensStopPlayback : Prop :=
  ∀ (i : Instr) (b : Byte) (s : State), malformedByte i = some b →
    (b ≠ 0 → exec i s = .next { s with
      strm := { s.strm with wrResult := .badCommand }
      frm := { s.frm with mode := .wrDrain }
      env := { s.env with act := s.env.act ++ [.playStop] } }) ∧
    (b = 0 → ∃ t, exec i s = .next t ∧ t.cfg = s.cfg ∧ t.dev = { s.dev with fluxStatus := .badCommand } ∧
      t.frm = { s.frm with mode := .idle } ∧ t.env.act = s.env.act ++ [.playStop] ∧ t.env.rxq = s.env.rxq ∧
      t.env.tx = s.env.tx ∧ t.env.txPending = s.env.txPending ∧ t.env.sched = s.env.sched)

/-! ### Streams -/

/-- One event of a read stream that does not end it: an interval is encoded and counted, an index pulse is marked
and its time stored. -/
def Obligations.ReadStreamEvents : Prop :=
  ∀ (n : Nat) (s : State), s.frm.mode = .rdStream → n ≤ tickMax →
    (1 ≤ n → s.onEvent (.edge n) = { s with
      strm := { s.strm with
        xferBytes := s.strm.xferBytes + BitVec.ofNat 32 (enc n).length
        rdCum := s.strm.rdCum + BitVec.ofNat 32 n }
      env := { s.env with
        tx := s.env.tx ++ (enc n).map .byte
        txPending := s.env.txPending ++ enc n } }) ∧
    (s.strm.rdSeen + 1 ≠ s.strm.rdTarget → s.onEvent (.index n) = { s with
      dev := { s.dev with
        idxTime := s.dev.idxTime.set s.strm.rdSeen.toNat (s.strm.rdCum + BitVec.ofNat 32 n) }
      strm := { s.strm with xferBytes := s.strm.xferBytes + 6, rdSeen := s.strm.rdSeen + 1 }
      env := { s.env with
        tx := s.env.tx ++ (encIndex n).map .byte
        txPending := s.env.txPending ++ encIndex n } })

/-- The ends of a read stream. An overrun, an index time-out or an event that cannot be encoded ends it with its status
and no sample, the terminator following the last complete token. The index pulse that makes `rd_seen` reach
`rd_target` completes it: the marker, the terminator, the status `OKAY`, this pulse's time stored, valid index times,
and one bandwidth sample, whose microseconds are those drawn, `State.drawUsecs`. -/
def Obligations.ReadStreamEnds : Prop :=
  (∀ (e : Event) (st : AckCode) (s : State), s.frm.mode = .rdStream →
    (e = .overrun ∧ st = .fluxOverflow) ∨ (e = .noIndex ∧ st = .noIndex) ∨
      ((e = .edge 0 ∨ ∃ n, n > tickMax ∧ (e = .edge n ∨ e = .index n)) ∧ st = .fluxOverflow) →
    (s.onEvent e).cfg = s.cfg ∧ (s.onEvent e).dev = { s.dev with fluxStatus := st } ∧
    (s.onEvent e).frm = { s.frm with mode := .idle } ∧
    (s.onEvent e).env.tx = s.env.tx ++ [.byte 0x00, .flush] ∧
    (s.onEvent e).env.txPending = s.env.txPending ++ [0x00] ∧
    (s.onEvent e).env.act = s.env.act ++ [.captureStop] ∧ (s.onEvent e).env.rxq = s.env.rxq) ∧
  (∀ (d : Nat) (s : State), s.frm.mode = .rdStream → d ≤ tickMax → s.strm.rdSeen + 1 = s.strm.rdTarget →
    (s.onEvent (.index d)).cfg = s.cfg ∧
    (s.onEvent (.index d)).dev = { (s.bwSample (s.strm.xferBytes + 7) s.drawUsecs.1).dev with
      idxTime := s.dev.idxTime.set s.strm.rdSeen.toNat (s.strm.rdCum + BitVec.ofNat 32 d)
      fluxStatus := .okay
      capValid := true } ∧
    (s.onEvent (.index d)).frm = { s.frm with mode := .idle } ∧
    (s.onEvent (.index d)).env.tx = s.env.tx ++ (encIndex d ++ [0x00]).map .byte ++ [.flush] ∧
    (s.onEvent (.index d)).env.txPending = s.env.txPending ++ (encIndex d ++ [0x00]) ∧
    (s.onEvent (.index d)).env.act = s.env.act ++ [.captureStop] ∧
    (s.onEvent (.index d)).env.rxq = s.env.rxq)

/-- A whole capture. Events of encodable intervals and index pulses, fewer pulses than the read asked for, emit
exactly the encodings in order, add up the ticks, store the pulses' times, and leave the stream open. Ended by the
index pulse that makes `rd_seen` reach `rd_target`, they emit the encodings, the last marker and the terminator, and
complete the stream: status `OKAY`, the index times stored and valid, one bandwidth sample of all its bytes. What a
completed capture emitted decodes to the same intervals and markers and `END`. -/
def Obligations.CapturedStreamDecodes : Prop :=
  (∀ (items : List FluxItem) (rest : List Turn) (s : State), s.frm.mode = .rdStream → s.dev.clearPending = false →
    (∀ x ∈ items, x.ok = true) →
    s.strm.rdSeen.toNat + items.countP FluxItem.isIndex < s.strm.rdTarget.toNat →
    s.env.sched = items.map (fun x => .event x.event) ++ rest →
    runSteps items.length s = .next { s with
      dev := { s.dev with idxTime := timesAfter s.strm.rdSeen.toNat s.strm.rdCum items s.dev.idxTime }
      strm := { s.strm with
        rdSeen := s.strm.rdSeen + BitVec.ofNat 8 (items.countP FluxItem.isIndex)
        rdCum := s.strm.rdCum + BitVec.ofNat 32 (items.map FluxItem.ticks).sum
        xferBytes := s.strm.xferBytes + BitVec.ofNat 32 (fluxBytes items).length }
      env := { s.env with
        tx := s.env.tx ++ (fluxBytes items).map .byte
        txPending := s.env.txPending ++ fluxBytes items
        sched := rest } }) ∧
  (∀ (items : List FluxItem) (d : Nat) (stream : List Byte) (rest : List Turn) (s : State),
    s.frm.mode = .rdStream → s.dev.clearPending = false → (∀ x ∈ items, x.ok = true) → d ≤ tickMax →
    s.strm.rdSeen.toNat + items.countP FluxItem.isIndex + 1 = s.strm.rdTarget.toNat →
    s.env.sched = (items ++ [FluxItem.index d]).map (fun x => .event x.event) ++ rest →
    stream = fluxBytes (items ++ [FluxItem.index d]) ++ [0x00] →
    decodeStream .tok stream = (items ++ [FluxItem.index d]).map FluxItem.yield ++ [.eos] ∧
    ∃ t, runSteps (items.length + 1) s = .next t ∧ t.cfg = s.cfg ∧ t.frm = { s.frm with mode := .idle } ∧
      t.dev = { (s.bwSample (s.strm.xferBytes + BitVec.ofNat 32 stream.length) s.drawUsecs.1).dev with
        idxTime := timesAfter s.strm.rdSeen.toNat s.strm.rdCum (items ++ [FluxItem.index d]) s.dev.idxTime
        fluxStatus := .okay
        capValid := true } ∧
      t.env.tx = s.env.tx ++ stream.map .byte ++ [.flush] ∧ t.env.txPending = s.env.txPending ++ stream ∧
      t.env.act = s.env.act ++ [.captureStop] ∧ t.env.rxq = s.env.rxq ∧ t.env.sched = rest)

/-- A whole replay: the encodings of intervals and index markers, fed to a write stream at a token boundary, play
exactly the intervals, in order, one step a byte, and leave the stream at a token boundary. -/
def Obligations.WrittenStreamPlays : Prop :=
  ∀ (items : List FluxItem) (rest : List Byte) (s : State), s.frm.mode = .wrStream → s.quiet = true →
    s.strm.dec = .tok → (∀ x ∈ items, x.ok = true) → s.env.rxq = fluxBytes items ++ rest →
    runSteps (fluxBytes items).length s = .next { s with
      strm := { s.strm with xferBytes := s.strm.xferBytes + BitVec.ofNat 32 (fluxBytes items).length }
      env := { s.env with rxq := rest, act := s.env.act ++ items.flatMap FluxItem.calls } }

/-- The events of a write stream: an underrun with no byte waiting, and an index pulse under terminate-at-index, stop
playback and drain; in `WR_TAIL` an index pulse or a time-out stops playback and ends the stream, the pulse with `OKAY`
and one bandwidth sample of the microseconds drawn, `State.drawUsecs`, the time-out with `NO_INDEX` and none. Neither
end emits anything. -/
def Obligations.WriteStreamEvents : Prop :=
  ∀ (d : Nat) (s : State),
    (s.frm.mode = .wrStream → s.env.rxq = [] → s.onEvent .underrun = { s with
      frm := { s.frm with mode := .wrDrain }
      strm := { s.strm with wrResult := .fluxUnderflow }
      env := { s.env with act := s.env.act ++ [.playStop] } }) ∧
    (s.frm.mode = .wrStream → s.strm.wrTai = true → s.onEvent (.index d) = { s with
      frm := { s.frm with mode := .wrDrain }
      env := { s.env with act := s.env.act ++ [.playStop] } }) ∧
    (s.frm.mode = .wrStream → s.strm.wrTai = false → s.onEvent (.index d) = s) ∧
    (s.frm.mode = .wrTail → s.strm.wrResult = .okay → ∃ t, s.onEvent (.index d) = t ∧ t.cfg = s.cfg ∧
      t.frm = { s.frm with mode := .idle } ∧
      t.dev = { (s.bwSample s.strm.xferBytes s.drawUsecs.1).dev with fluxStatus := .okay } ∧
      t.env.act = s.env.act ++ [.playStop] ∧ t.env.tx = s.env.tx ∧ t.env.txPending = s.env.txPending ∧
      t.env.rxq = s.env.rxq ∧ t.env.sched = s.env.sched) ∧
    (s.frm.mode = .wrTail → ∃ t, s.onEvent .noIndex = t ∧ t.cfg = s.cfg ∧
      t.frm = { s.frm with mode := .idle } ∧ t.dev = { s.dev with fluxStatus := .noIndex } ∧
      t.env.act = s.env.act ++ [.playStop] ∧ t.env.tx = s.env.tx ∧ t.env.txPending = s.env.txPending ∧
      t.env.rxq = s.env.rxq ∧ t.env.sched = s.env.sched)

/-- An event that is not accepted is ignored: nothing changes but the turn. Not accepted are the events that the mode
does not list, and an underrun in `WR_STREAM` while a byte waits in `RXQ` (log entry 7). -/
def Obligations.UnacceptedEventsIgnored : Prop :=
  ∀ (e : Event) (rest : List Turn) (s : State), s.dev.clearPending = false → s.env.sched = .event e :: rest →
    accepts s.frm.mode s.env.rxq e = false →
    step s = .next { s with env := { s.env with sched := rest } }

/-- `WR_DRAIN` discards bytes up to and including the first `00`, unparsed, and then ends the stream with its status:
`OKAY` with one bandwidth sample of all the stream's bytes and the microseconds drawn, `State.drawUsecs`; any other
status with none. -/
def Obligations.DrainEndsAtFirstZero : Prop :=
  ∀ (bytes rest : List Byte) (s : State), s.frm.mode = .wrDrain → s.quiet = true → (0 : Byte) ∉ bytes →
    s.env.rxq = bytes ++ 0 :: rest →
    ∃ t, runSteps (bytes.length + 1) s = .next t ∧ t.cfg = s.cfg ∧ t.frm = { s.frm with mode := .idle } ∧
      t.env.rxq = rest ∧
      (s.strm.wrResult = .okay → t.dev =
        { (s.bwSample (s.strm.xferBytes + BitVec.ofNat 32 (bytes.length + 1)) s.drawUsecs.1).dev with
          fluxStatus := .okay }) ∧
      (s.strm.wrResult ≠ .okay → t.dev = { s.dev with fluxStatus := s.strm.wrResult }) ∧
      t.env.tx = s.env.tx ∧ t.env.txPending = s.env.txPending ∧ t.env.act = s.env.act

/-- A source transfer emits exactly the bytes left to move, whatever their values, takes one bandwidth sample of all
its bytes, and returns to `IDLE`; it consumes nothing. The sample's microseconds are drawn, `State.drawUsecs`, after the
filler bytes, of which each that no answer lists has used one free value. -/
def Obligations.SourceSendsItsCount : Prop :=
  ∀ s : State, s.frm.mode = .src → s.quiet = true → s.strm.xferLeft ≠ 0 →
    ∃ (t : State) (fillers : List Byte), runSteps s.strm.xferLeft.toNat s = .next t ∧ t.cfg = s.cfg ∧
      fillers.length = s.strm.xferLeft.toNat ∧ t.frm = { s.frm with mode := .idle } ∧
      t.env.txPending = s.env.txPending ++ fillers ∧ t.env.tx = s.env.tx ++ fillers.map .byte ++ [.flush] ∧
      t.env.rxq = s.env.rxq ∧ t.env.act = s.env.act ∧
      t.dev = (s.bwSample (s.strm.xferBytes + s.strm.xferLeft) (State.drawUsecs { s with env := { s.env with
        draws := s.env.draws + (s.strm.xferLeft.toNat - s.env.answers.filler.length) } }).1).dev

/-- A sink transfer consumes exactly the bytes left to move, whatever their values, emits nothing, takes one bandwidth
sample of all its bytes and the microseconds drawn, `State.drawUsecs`, and returns to `IDLE`; the byte after them is
untouched. -/
def Obligations.SinkSwallowsItsCount : Prop :=
  ∀ (bytes rest : List Byte) (s : State), s.frm.mode = .sink → s.quiet = true → s.strm.xferLeft ≠ 0 →
    bytes.length = s.strm.xferLeft.toNat → s.env.rxq = bytes ++ rest →
    ∃ t, runSteps bytes.length s = .next t ∧ t.cfg = s.cfg ∧ t.frm = { s.frm with mode := .idle } ∧
      t.env.rxq = rest ∧ t.env.tx = s.env.tx ++ [.flush] ∧ t.env.txPending = s.env.txPending ∧
      t.env.act = s.env.act ∧
      t.dev = (s.bwSample (s.strm.xferBytes + s.strm.xferLeft) s.drawUsecs.1).dev
end

