-- ==== Sys2Proof/Laws/Decode.lean ====
section
/-!
SUPPORT. The small facts about bytes, little-endian words, N28 groups and packets that statements about the encodings
are proved over.
-/

namespace Sys2Proof

/-- The byte of a number below 256 is that number. -/
theorem byteOf_toNat (n : Nat) (h : n < 256) : (byteOf n).toNat = n := by simp [byteOf]; omega

/-- A byte is the byte of its number. -/
@[simp] theorem byteOf_toNat_self (b : Byte) : byteOf b.toNat = b := by simp [byteOf]

/-- Four bytes as a number, least significant first (R7). -/
theorem rd32_toNat (a b c d : Byte) :
    (rd32 a b c d).toNat = a.toNat + 2 ^ 8 * b.toNat + 2 ^ 16 * c.toNat + 2 ^ 24 * d.toNat := by
  have h : ∀ x y : Nat, y < 256 → (x <<< 8 ||| y) = x * 256 + y := fun x y hy => by
    rw [← Nat.shiftLeft_add_eq_or_of_lt hy, Nat.shiftLeft_eq]
  simp only [rd32, BitVec.toNat_append]
  rw [h _ _ a.isLt, h _ _ b.isLt, h _ _ c.isLt]
  omega

/-- `rd32` reads what `le32` wrote. -/
theorem rd32_le32 (v : U32) :
    rd32 (v.setWidth 8) ((v >>> 8).setWidth 8) ((v >>> 16).setWidth 8) ((v >>> 24).setWidth 8) = v := by
  apply BitVec.eq_of_toNat_eq
  rw [rd32_toNat]
  simp only [BitVec.toNat_setWidth, BitVec.toNat_ushiftRight, Nat.shiftRight_eq_div_pow]
  have := v.isLt
  omega

/-- `le32` writes what `rd32` read. -/
theorem le32_rd32 (a b c d : Byte) : le32 (rd32 a b c d) = [a, b, c, d] := by
  have h := rd32_toNat a b c d
  have := a.isLt
  have := b.isLt
  have := c.isLt
  have := d.isLt
  simp only [le32, List.cons.injEq, and_true]
  refine ⟨?_, ?_, ?_, ?_⟩ <;> apply BitVec.eq_of_toNat_eq <;>
    simp only [BitVec.toNat_setWidth, BitVec.toNat_ushiftRight, Nat.shiftRight_eq_div_pow, h] <;> omega

/-- A whole packet is judged by its opcode and the format of its fields alone. -/
theorem decodePacket_packet (op : Byte) (f : List Byte) (hl : f.length ≤ 253) :
    decodePacket (op :: byteOf (f.length + 2) :: f) =
      match commandFormat op.toNat with
      | none => .ok (illegalRow op f)
      | some format =>
        match format f with
        | some i => .ok i
        | none => .rejected (.illegalLength op) := by
  have hb := byteOf_toNat (f.length + 2) (by omega)
  simp only [decodePacket, hb, show ¬ f.length + 2 < 2 by omega, if_false, ne_eq, not_true] <;> rfl

/-- The opcodes that are not known have no format. -/
theorem commandFormat_none (n : Nat) (h : n = 1 ∨ 20 ≤ n) : commandFormat n = none := by
  rcases h with rfl | h
  · rfl
  · unfold commandFormat; split <;> first | omega | rfl

/-- One more group of an N28 integer. -/
theorem un28_append (l : List Byte) (b : Byte) : un28 (l ++ [b]) = un28 l + 128 ^ l.length * (b.toNat / 2) := by
  induction l with
  | nil => simp [un28]
  | cons c l ih =>
    simp only [List.cons_append, un28, ih, List.length_cons, Nat.pow_succ, Nat.mul_add, Nat.add_assoc]
    rw [← Nat.mul_assoc, Nat.mul_comm 128 (128 ^ l.length)]

/-- Every byte of N28 is odd (R197). -/
theorem n28_odd (n : Nat) : ∀ b ∈ n28 n, b.toNat % 2 = 1 := by
  intro b hb
  simp only [n28, List.mem_cons, List.not_mem_nil, or_false] at hb
  rcases hb with rfl | rfl | rfl | rfl <;> rw [byteOf_toNat _ (by omega)] <;> omega

end Sys2Proof
end

