-- ==== Sys2Proof/Laws/State.lean ====
section
/-!
SUPPORT. What each single-group update of Machine/Ops.lean and Machine/Engine.lean leaves in each group of the state:
one lemma for each update and group, true by rfl.
-/

namespace Sys2Proof.Machine

variable (s : State)

@[simp] theorem State.emit_cfg (b : List Byte) : (s.emit b).cfg = s.cfg := rfl
@[simp] theorem State.emit_dev (b : List Byte) : (s.emit b).dev = s.dev := rfl
@[simp] theorem State.emit_frm (b : List Byte) : (s.emit b).frm = s.frm := rfl
@[simp] theorem State.emit_strm (b : List Byte) : (s.emit b).strm = s.strm := rfl
@[simp] theorem State.emit_env (b : List Byte) :
    (s.emit b).env = { s.env with tx := s.env.tx ++ b.map .byte, txPending := s.env.txPending ++ b } := rfl

@[simp] theorem State.flush_cfg : s.flush.cfg = s.cfg := rfl
@[simp] theorem State.flush_dev : s.flush.dev = s.dev := rfl
@[simp] theorem State.flush_frm : s.flush.frm = s.frm := rfl
@[simp] theorem State.flush_strm : s.flush.strm = s.strm := rfl
@[simp] theorem State.flush_env : s.flush.env = { s.env with tx := s.env.tx ++ [.flush] } := rfl

@[simp] theorem State.tpReset_cfg : s.tpReset.cfg = s.cfg := rfl
@[simp] theorem State.tpReset_dev : s.tpReset.dev = s.dev := rfl
@[simp] theorem State.tpReset_frm : s.tpReset.frm = s.frm := rfl
@[simp] theorem State.tpReset_strm : s.tpReset.strm = s.strm := rfl
@[simp] theorem State.tpReset_env :
    s.tpReset.env = { s.env with rxq := [], tx := s.env.tx ++ [.reset], txPending := [] } := rfl

@[simp] theorem State.ack_cfg (c : AckCode) : (s.ack c).cfg = s.cfg := rfl
@[simp] theorem State.ack_dev (c : AckCode) : (s.ack c).dev = s.dev := rfl
@[simp] theorem State.ack_frm (c : AckCode) : (s.ack c).frm = s.frm := rfl
@[simp] theorem State.ack_strm (c : AckCode) : (s.ack c).strm = s.strm := rfl
@[simp] theorem State.ack_env (c : AckCode) :
    (s.ack c).env =
      { s.env with tx := s.env.tx ++ [.byte c.toByte], txPending := s.env.txPending ++ [c.toByte] } := rfl

@[simp] theorem State.call_cfg (c : ActCall) : (s.call c).cfg = s.cfg := rfl
@[simp] theorem State.call_dev (c : ActCall) : (s.call c).dev = s.dev := rfl
@[simp] theorem State.call_frm (c : ActCall) : (s.call c).frm = s.frm := rfl
@[simp] theorem State.call_strm (c : ActCall) : (s.call c).strm = s.strm := rfl
@[simp] theorem State.call_env (c : ActCall) : (s.call c).env = { s.env with act := s.env.act ++ [c] } := rfl

@[simp] theorem State.countDraw_cfg : s.countDraw.cfg = s.cfg := rfl
@[simp] theorem State.countDraw_dev : s.countDraw.dev = s.dev := rfl
@[simp] theorem State.countDraw_frm : s.countDraw.frm = s.frm := rfl
@[simp] theorem State.countDraw_strm : s.countDraw.strm = s.strm := rfl
@[simp] theorem State.countDraw_env : s.countDraw.env = { s.env with draws := s.env.draws + 1 } := rfl

@[simp] theorem State.setMode_cfg (m : Mode) : (s.setMode m).cfg = s.cfg := rfl
@[simp] theorem State.setMode_dev (m : Mode) : (s.setMode m).dev = s.dev := rfl
@[simp] theorem State.setMode_frm (m : Mode) : (s.setMode m).frm = { s.frm with mode := m } := rfl
@[simp] theorem State.setMode_strm (m : Mode) : (s.setMode m).strm = s.strm := rfl
@[simp] theorem State.setMode_env (m : Mode) : (s.setMode m).env = s.env := rfl

@[simp] theorem State.setRxCnt_cfg (n : Nat) : (s.setRxCnt n).cfg = s.cfg := rfl
@[simp] theorem State.setRxCnt_dev (n : Nat) : (s.setRxCnt n).dev = s.dev := rfl
@[simp] theorem State.setRxCnt_frm (n : Nat) : (s.setRxCnt n).frm = { s.frm with rxCnt := n } := rfl
@[simp] theorem State.setRxCnt_strm (n : Nat) : (s.setRxCnt n).strm = s.strm := rfl
@[simp] theorem State.setRxCnt_env (n : Nat) : (s.setRxCnt n).env = s.env := rfl

@[simp] theorem State.setFluxStatus_cfg (c : AckCode) : (s.setFluxStatus c).cfg = s.cfg := rfl
@[simp] theorem State.setFluxStatus_dev (c : AckCode) : (s.setFluxStatus c).dev = { s.dev with fluxStatus := c } := rfl
@[simp] theorem State.setFluxStatus_frm (c : AckCode) : (s.setFluxStatus c).frm = s.frm := rfl
@[simp] theorem State.setFluxStatus_strm (c : AckCode) : (s.setFluxStatus c).strm = s.strm := rfl
@[simp] theorem State.setFluxStatus_env (c : AckCode) : (s.setFluxStatus c).env = s.env := rfl

@[simp] theorem State.setCapValid_cfg (v : Bool) : (s.setCapValid v).cfg = s.cfg := rfl
@[simp] theorem State.setCapValid_dev (v : Bool) : (s.setCapValid v).dev = { s.dev with capValid := v } := rfl
@[simp] theorem State.setCapValid_frm (v : Bool) : (s.setCapValid v).frm = s.frm := rfl
@[simp] theorem State.setCapValid_strm (v : Bool) : (s.setCapValid v).strm = s.strm := rfl
@[simp] theorem State.setCapValid_env (v : Bool) : (s.setCapValid v).env = s.env := rfl

@[simp] theorem State.setClearPending_cfg (v : Bool) : (s.setClearPending v).cfg = s.cfg := rfl
@[simp] theorem State.setClearPending_dev (v : Bool) :
    (s.setClearPending v).dev = { s.dev with clearPending := v } := rfl
@[simp] theorem State.setClearPending_frm (v : Bool) : (s.setClearPending v).frm = s.frm := rfl
@[simp] theorem State.setClearPending_strm (v : Bool) : (s.setClearPending v).strm = s.strm := rfl
@[simp] theorem State.setClearPending_env (v : Bool) : (s.setClearPending v).env = s.env := rfl

@[simp] theorem State.paramsWrite_cfg (d : List Byte) : (s.paramsWrite d).cfg = s.cfg := rfl
@[simp] theorem State.paramsWrite_dev (d : List Byte) : (s.paramsWrite d).dev = { s.dev with delay := d } := rfl
@[simp] theorem State.paramsWrite_frm (d : List Byte) : (s.paramsWrite d).frm = s.frm := rfl
@[simp] theorem State.paramsWrite_strm (d : List Byte) : (s.paramsWrite d).strm = s.strm := rfl
@[simp] theorem State.paramsWrite_env (d : List Byte) : (s.paramsWrite d).env = s.env := rfl

@[simp] theorem State.idxWrite_cfg (i : Nat) (v : U32) : (s.idxWrite i v).cfg = s.cfg := rfl
@[simp] theorem State.idxWrite_dev (i : Nat) (v : U32) :
    (s.idxWrite i v).dev = { s.dev with idxTime := s.dev.idxTime.set i v } := rfl
@[simp] theorem State.idxWrite_frm (i : Nat) (v : U32) : (s.idxWrite i v).frm = s.frm := rfl
@[simp] theorem State.idxWrite_strm (i : Nat) (v : U32) : (s.idxWrite i v).strm = s.strm := rfl
@[simp] theorem State.idxWrite_env (i : Nat) (v : U32) : (s.idxWrite i v).env = s.env := rfl

@[simp] theorem State.idxClear_cfg : s.idxClear.cfg = s.cfg := rfl
@[simp] theorem State.idxClear_dev :
    s.idxClear.dev = { s.dev with idxTime := List.replicate s.cfg.maxIndex.toNat 0 } := rfl
@[simp] theorem State.idxClear_frm : s.idxClear.frm = s.frm := rfl
@[simp] theorem State.idxClear_strm : s.idxClear.strm = s.strm := rfl
@[simp] theorem State.idxClear_env : s.idxClear.env = s.env := rfl

@[simp] theorem State.motorWrite_cfg (u : Byte) (on : Bool) : (s.motorWrite u on).cfg = s.cfg := rfl
@[simp] theorem State.motorWrite_dev (u : Byte) (on : Bool) :
    (s.motorWrite u on).dev = { s.dev with motor := s.dev.motor.set u.toNat on } := rfl
@[simp] theorem State.motorWrite_frm (u : Byte) (on : Bool) : (s.motorWrite u on).frm = s.frm := rfl
@[simp] theorem State.motorWrite_strm (u : Byte) (on : Bool) : (s.motorWrite u on).strm = s.strm := rfl
@[simp] theorem State.motorWrite_env (u : Byte) (on : Bool) : (s.motorWrite u on).env = s.env := rfl

@[simp] theorem State.cylWrite_cfg (u c : Byte) : (s.cylWrite u c).cfg = s.cfg := rfl
@[simp] theorem State.cylWrite_dev (u c : Byte) :
    (s.cylWrite u c).dev = { s.dev with cyl := s.dev.cyl.set u.toNat c } := rfl
@[simp] theorem State.cylWrite_frm (u c : Byte) : (s.cylWrite u c).frm = s.frm := rfl
@[simp] theorem State.cylWrite_strm (u c : Byte) : (s.cylWrite u c).strm = s.strm := rfl
@[simp] theorem State.cylWrite_env (u c : Byte) : (s.cylWrite u c).env = s.env := rfl

@[simp] theorem State.sideWrite_cfg (u : Byte) (sd : Bool) : (s.sideWrite u sd).cfg = s.cfg := rfl
@[simp] theorem State.sideWrite_dev (u : Byte) (sd : Bool) :
    (s.sideWrite u sd).dev = { s.dev with side := s.dev.side.set u.toNat sd } := rfl
@[simp] theorem State.sideWrite_frm (u : Byte) (sd : Bool) : (s.sideWrite u sd).frm = s.frm := rfl
@[simp] theorem State.sideWrite_strm (u : Byte) (sd : Bool) : (s.sideWrite u sd).strm = s.strm := rfl
@[simp] theorem State.sideWrite_env (u : Byte) (sd : Bool) : (s.sideWrite u sd).env = s.env := rfl

@[simp] theorem State.pinWrite_cfg (p : Byte) (v : Bool) : (s.pinWrite p v).cfg = s.cfg := rfl
@[simp] theorem State.pinWrite_dev (p : Byte) (v : Bool) :
    (s.pinWrite p v).dev = { s.dev with pin := setPinLevel p v s.dev.pin } := rfl
@[simp] theorem State.pinWrite_frm (p : Byte) (v : Bool) : (s.pinWrite p v).frm = s.frm := rfl
@[simp] theorem State.pinWrite_strm (p : Byte) (v : Bool) : (s.pinWrite p v).strm = s.strm := rfl
@[simp] theorem State.pinWrite_env (p : Byte) (v : Bool) : (s.pinWrite p v).env = s.env := rfl

@[simp] theorem State.setSel_cfg (u : Option Byte) : (s.setSel u).cfg = s.cfg := rfl
@[simp] theorem State.setSel_dev (u : Option Byte) : (s.setSel u).dev = { s.dev with sel := u } := rfl
@[simp] theorem State.setSel_frm (u : Option Byte) : (s.setSel u).frm = s.frm := rfl
@[simp] theorem State.setSel_strm (u : Option Byte) : (s.setSel u).strm = s.strm := rfl
@[simp] theorem State.setSel_env (u : Option Byte) : (s.setSel u).env = s.env := rfl

@[simp] theorem State.setBus_cfg (t : BusType) : (s.setBus t).cfg = s.cfg := rfl
@[simp] theorem State.setBus_dev (t : BusType) : (s.setBus t).dev = { s.dev with busType := t } := rfl
@[simp] theorem State.setBus_frm (t : BusType) : (s.setBus t).frm = s.frm := rfl
@[simp] theorem State.setBus_strm (t : BusType) : (s.setBus t).strm = s.strm := rfl
@[simp] theorem State.setBus_env (t : BusType) : (s.setBus t).env = s.env := rfl

@[simp] theorem State.bwClear_cfg : s.bwClear.cfg = s.cfg := rfl
@[simp] theorem State.bwClear_dev : s.bwClear.dev = { s.dev with bwMin := ⟨0, 0⟩, bwMax := ⟨0, 0⟩ } := rfl
@[simp] theorem State.bwClear_frm : s.bwClear.frm = s.frm := rfl
@[simp] theorem State.bwClear_strm : s.bwClear.strm = s.strm := rfl
@[simp] theorem State.bwClear_env : s.bwClear.env = s.env := rfl

@[simp] theorem State.countBytes_cfg (n : Nat) : (s.countBytes n).cfg = s.cfg := rfl
@[simp] theorem State.countBytes_dev (n : Nat) : (s.countBytes n).dev = s.dev := rfl
@[simp] theorem State.countBytes_frm (n : Nat) : (s.countBytes n).frm = s.frm := rfl
@[simp] theorem State.countBytes_strm (n : Nat) :
    (s.countBytes n).strm = { s.strm with xferBytes := s.strm.xferBytes + BitVec.ofNat 32 n } := rfl
@[simp] theorem State.countBytes_env (n : Nat) : (s.countBytes n).env = s.env := rfl

@[simp] theorem State.setWrResult_cfg (c : AckCode) : (s.setWrResult c).cfg = s.cfg := rfl
@[simp] theorem State.setWrResult_dev (c : AckCode) : (s.setWrResult c).dev = s.dev := rfl
@[simp] theorem State.setWrResult_frm (c : AckCode) : (s.setWrResult c).frm = s.frm := rfl
@[simp] theorem State.setWrResult_strm (c : AckCode) : (s.setWrResult c).strm = { s.strm with wrResult := c } := rfl
@[simp] theorem State.setWrResult_env (c : AckCode) : (s.setWrResult c).env = s.env := rfl

@[simp] theorem State.destroyStream_cfg : s.destroyStream.cfg = s.cfg := rfl
@[simp] theorem State.destroyStream_dev : s.destroyStream.dev = s.dev := rfl
@[simp] theorem State.destroyStream_frm : s.destroyStream.frm = s.frm := rfl
@[simp] theorem State.destroyStream_strm : s.destroyStream.strm = Config.deadStream s.env.draws := rfl
@[simp] theorem State.destroyStream_env : s.destroyStream.env = { s.env with draws := s.env.draws + 1 } := rfl

@[simp] theorem State.endStream_cfg : s.endStream.cfg = s.cfg := rfl
@[simp] theorem State.endStream_dev : s.endStream.dev = s.dev := rfl
@[simp] theorem State.endStream_frm : s.endStream.frm = { s.frm with mode := .idle } := rfl
@[simp] theorem State.endStream_strm : s.endStream.strm = Config.deadStream s.env.draws := rfl
@[simp] theorem State.endStream_env : s.endStream.env = { s.env with draws := s.env.draws + 1 } := rfl

@[simp] theorem State.accumulate_cfg (b : Byte) : (s.accumulate b).cfg = s.cfg := rfl
@[simp] theorem State.accumulate_dev (b : Byte) : (s.accumulate b).dev = s.dev := rfl
@[simp] theorem State.accumulate_frm (b : Byte) :
    (s.accumulate b).frm = { s.frm with cbuf := s.frm.cbuf.set s.frm.rxCnt b, rxCnt := s.frm.rxCnt + 1 } := rfl
@[simp] theorem State.accumulate_strm (b : Byte) : (s.accumulate b).strm = s.strm := rfl
@[simp] theorem State.accumulate_env (b : Byte) : (s.accumulate b).env = s.env := rfl

@[simp] theorem State.decodeByte_cfg (b : Byte) : (s.decodeByte b).cfg = s.cfg := rfl
@[simp] theorem State.decodeByte_dev (b : Byte) : (s.decodeByte b).dev = s.dev := rfl
@[simp] theorem State.decodeByte_frm (b : Byte) : (s.decodeByte b).frm = s.frm := rfl
@[simp] theorem State.decodeByte_strm (b : Byte) :
    (s.decodeByte b).strm =
      { s.strm with xferBytes := s.strm.xferBytes + BitVec.ofNat 32 1, dec := (decStep s.strm.dec b).1 } := rfl
@[simp] theorem State.decodeByte_env (b : Byte) : (s.decodeByte b).env = s.env := rfl

end Sys2Proof.Machine
end

