-- ==== Sys2Proof/Laws/Ops.lean ====
section
/-!
SUPPORT. What each shared operation does, said once: the meanings and the steps are proved over these lemmas, and
unfold no operation again.
-/

namespace Sys2Proof.Machine

/-! ### Ends of commands -/

/-- A refusal's entry leaves the state of a refusal. -/
theorem State.raiseAck_eq (c : AckCode) (s : State) : s.raiseAck c = s.refused c := by
  simp [State.raiseAck, State.refused, State.ack, State.emit, State.flush, State.setMode, State.setRxCnt]

/-- An accepted command's end leaves the state of an answer. -/
theorem State.finish_eq (c : AckCode) (payload : List Byte) (s : State) :
    s.finish c payload = s.answered s.dev [] c payload := by
  simp [State.finish, State.answered, State.ack, State.emit, State.flush, State.setMode]

/-- The acceptance of a streaming command leaves its mode and its leading ack. -/
theorem State.enterStream_eq (m : Mode) (s : State) : s.enterStream m = s.started s.dev s.strm [] m := by
  simp [State.enterStream, State.started, State.ack, State.emit, State.flush, State.setMode]

/-- Writing the device registers and making calls before the answer are part of the answer. -/
theorem State.answered_of (s t : State) (dev : Device) (calls : List ActCall) (c : AckCode) (payload : List Byte)
    (h : t = { s with dev := dev, env := { s.env with act := s.env.act ++ calls } }) :
    t.answered t.dev [] c payload = s.answered dev calls c payload := by
  subst h; simp [State.answered]

/-- `releaseUnit` makes a call when a unit is selected, and nothing else. -/
theorem State.releaseUnit_eq (s : State) :
    s.releaseUnit = { s with env := { s.env with
      act := s.env.act ++ match s.dev.sel with | none => [] | some _ => [.deselect] } } := by
  unfold State.releaseUnit; split <;> simp_all [State.call]

/-! ### Draws -/

/-- A drawn seek records the call, and uses one answer. -/
theorem State.actSeek_spec (u f c : Byte) (s : State) : ∃ (a : Answers) (n : Nat),
    (s.actSeek u f c).2 =
      { s with env := { s.env with act := s.env.act ++ [.seek u f c], answers := a, draws := n } } := by
  unfold State.actSeek; split
  · exact ⟨_, _, rfl⟩
  · exact ⟨_, _, rfl⟩

/-- A drawn write-protect answer records the call, and uses one answer. -/
theorem State.actWrprot_spec (s : State) : ∃ (a : Answers) (n : Nat),
    s.actWrprot.2 = { s with env := { s.env with act := s.env.act ++ [.wrprot], answers := a, draws := n } } := by
  unfold State.actWrprot; split
  · exact ⟨_, _, rfl⟩
  · exact ⟨_, _, rfl⟩

/-- Drawn microseconds use one answer and change nothing else. -/
theorem State.drawUsecs_spec (s : State) : ∃ (a : Answers) (n : Nat),
    s.drawUsecs.2 = { s with env := { s.env with answers := a, draws := n } } := by
  unfold State.drawUsecs; split
  · exact ⟨_, _, rfl⟩
  · exact ⟨_, _, rfl⟩

/-- A drawn filler byte uses one answer and changes nothing else. -/
theorem State.drawFiller_spec (s : State) : ∃ (a : Answers) (n : Nat),
    s.drawFiller.2 = { s with env := { s.env with answers := a, draws := n } } := by
  unfold State.drawFiller; split
  · exact ⟨_, _, rfl⟩
  · exact ⟨_, _, rfl⟩

/-- The filler bytes drawn use up their answers first, and a free value each after that. -/
theorem State.drawFiller_eq (s : State) :
    s.drawFiller.2 = { s with env := { s.env with
      answers := { s.env.answers with filler := s.env.answers.filler.tail }
      draws := s.env.draws + (1 - s.env.answers.filler.length) } } := by
  obtain ⟨cfg, dev, frm, strm, rxq, tx, p, act, sched, ⟨sk, w, u, f⟩, draws⟩ := s
  cases f with
  | nil => rfl
  | cons b rest => simp [State.drawFiller]

/-- The microseconds drawn depend on the answers listed for them and on the draws alone. -/
theorem State.drawUsecs_congr (s t : State) (ha : t.env.answers.usecs = s.env.answers.usecs) (hd : t.env.draws = s.env.draws) :
    t.drawUsecs.1 = s.drawUsecs.1 := by
  unfold State.drawUsecs; rw [ha, hd]; split <;> rfl

/-! ### Samples -/

/-- A sample changes the two extrema and nothing else. -/
theorem State.bwSample_spec (b u : U32) (s : State) : ∃ mn mx : BwPair,
    s.bwSample b u = { s with dev := { s.dev with bwMin := mn, bwMax := mx } } := by
  unfold State.bwSample; split
  · exact ⟨_, _, rfl⟩
  · split
    · exact ⟨_, _, rfl⟩
    · exact ⟨_, _, rfl⟩

/-- The extrema after a sample depend on the extrema before it alone. -/
theorem State.bwSample_congr (b u : U32) (s t : State) (hn : t.dev.bwMin = s.dev.bwMin)
    (hx : t.dev.bwMax = s.dev.bwMax) :
    (t.bwSample b u).dev.bwMin = (s.bwSample b u).dev.bwMin ∧ (t.bwSample b u).dev.bwMax = (s.bwSample b u).dev.bwMax := by
  unfold State.bwSample; rw [hn, hx]; split
  · exact ⟨hn, hx⟩
  · split <;> exact ⟨rfl, rfl⟩

/-- The sample of a stream changes the two extrema, uses one answer, and changes nothing else. -/
theorem State.sampleStream_spec (s : State) : ∃ (mn mx : BwPair) (a : Answers) (n : Nat),
    s.sampleStream = { s with
      dev := { s.dev with bwMin := mn, bwMax := mx }, env := { s.env with answers := a, draws := n } } := by
  obtain ⟨a, n, h⟩ := s.drawUsecs_spec
  obtain ⟨mn, mx, h'⟩ := s.drawUsecs.2.bwSample_spec s.strm.xferBytes s.drawUsecs.1
  exact ⟨mn, mx, a, n, by rw [State.sampleStream, h', h]⟩

/-- A sample reads of a state its two extrema, and keeps every other device register. -/
theorem State.bwSample_dev_of (b u : U32) (s t : State) (hn : s.dev.bwMin = t.dev.bwMin)
    (hx : s.dev.bwMax = t.dev.bwMax) :
    (s.bwSample b u).dev =
      { s.dev with bwMin := (t.bwSample b u).dev.bwMin, bwMax := (t.bwSample b u).dev.bwMax } := by
  obtain ⟨hn', hx'⟩ := State.bwSample_congr b u t s hn hx
  obtain ⟨mn, mx, e⟩ := s.bwSample_spec b u
  rw [← hn', ← hx', e]

/-- States with the same device registers have the same ones after a sample. -/
theorem State.bwSample_dev_congr (b u : U32) (s t : State) (h : s.dev = t.dev) :
    (s.bwSample b u).dev = (t.bwSample b u).dev := by
  rw [State.bwSample_dev_of b u s t (by rw [h]) (by rw [h]), h]
  exact (State.bwSample_dev_of b u t t rfl rfl).symm

/-- The sample of a stream leaves the device registers of `bw_sample` of its bytes and the microseconds drawn. -/
theorem State.sampleStream_dev (s : State) :
    s.sampleStream.dev = (s.bwSample s.strm.xferBytes s.drawUsecs.1).dev := by
  obtain ⟨a, n, h⟩ := s.drawUsecs_spec
  have hd : s.drawUsecs.2.dev = s.dev := by rw [h]
  rw [State.sampleStream, State.bwSample_dev_congr _ _ _ s hd]

/-! ### Ends of streams -/

/-- The end of a read stream: the terminator, the status, for `OKAY` valid index times and new extrema; the stream's
registers are gone. -/
theorem State.rdEnd_spec (st : AckCode) (s : State) : ∃ (mn mx : BwPair) (a : Answers) (n : Nat) (t : Stream),
    s.rdEnd st = { s with
      dev := { s.dev with
        fluxStatus := st, capValid := (if st = .okay then true else s.dev.capValid), bwMin := mn, bwMax := mx }
      frm := { s.frm with mode := .idle }
      strm := t
      env := { s.env with
        tx := s.env.tx ++ [.byte 0x00, .flush], txPending := s.env.txPending ++ [0x00]
        act := s.env.act ++ [.captureStop], answers := a, draws := n } } ∧
    (st ≠ .okay → mn = s.dev.bwMin ∧ mx = s.dev.bwMax) := by
  unfold State.rdEnd
  by_cases h : st = .okay
  · simp only [h, ↓reduceIte]
    obtain ⟨mn, mx, a, n, hs⟩ := State.sampleStream_spec
      (((((s.emit [0x00]).countBytes 1).call .captureStop).setFluxStatus .okay).setCapValid true)
    rw [hs]
    exact ⟨mn, mx, a, n + 1, Config.deadStream n, by simp [State.flush, State.endStream, State.destroyStream, State.countDraw,
      State.setMode, State.emit], by simp⟩
  · simp only [h, ↓reduceIte]
    exact ⟨s.dev.bwMin, s.dev.bwMax, s.env.answers, s.env.draws + 1, Config.deadStream s.env.draws, by simp [State.flush, State.endStream,
      State.destroyStream, State.countDraw, State.setMode, State.emit, State.call, State.setFluxStatus,
      State.countBytes], by simp⟩

/-- The end of a write stream: its status, for `OKAY` new extrema; the stream's registers are gone. -/
theorem State.wrFinish_spec (s : State) : ∃ (mn mx : BwPair) (a : Answers) (n : Nat) (t : Stream),
    s.wrFinish = { s with
      dev := { s.dev with fluxStatus := s.strm.wrResult, bwMin := mn, bwMax := mx }
      frm := { s.frm with mode := .idle }
      strm := t
      env := { s.env with answers := a, draws := n } } ∧
    (s.strm.wrResult ≠ .okay → mn = s.dev.bwMin ∧ mx = s.dev.bwMax) := by
  unfold State.wrFinish
  by_cases h : s.strm.wrResult = .okay
  · simp only [h, ↓reduceIte]
    obtain ⟨mn, mx, a, n, hs⟩ := State.sampleStream_spec (s.setFluxStatus .okay)
    rw [hs]
    exact ⟨mn, mx, a, n + 1, Config.deadStream n, by simp [State.endStream, State.destroyStream, State.countDraw, State.setMode],
      by simp⟩
  · simp only [h, ↓reduceIte]
    exact ⟨s.dev.bwMin, s.dev.bwMax, s.env.answers, s.env.draws + 1, Config.deadStream s.env.draws, by simp [State.endStream,
      State.destroyStream, State.countDraw, State.setMode, State.setFluxStatus], by simp⟩

/-- A read stream that completes leaves its status, valid index times, and the sample of all its bytes, the
terminator among them. -/
theorem State.rdEnd_okay_dev (s : State) :
    (s.rdEnd .okay).dev = { (s.bwSample (s.strm.xferBytes + 1) s.drawUsecs.1).dev with
      fluxStatus := .okay, capValid := true } := by
  rw [State.rdEnd]
  simp only [if_true, State.endStream_dev, State.flush_dev]
  generalize hr : State.setCapValid true _ = r
  have hb : r.strm.xferBytes = s.strm.xferBytes + 1 := by rw [← hr]; simp
  have hd : r.dev = { s.dev with fluxStatus := .okay, capValid := true } := by rw [← hr]; rfl
  rw [State.sampleStream_dev, hb, State.drawUsecs_congr s r (by rw [← hr]; rfl) (by rw [← hr]; rfl),
    State.bwSample_dev_of _ _ r s (by rw [hd]) (by rw [hd]), State.bwSample_dev_of _ _ s s rfl rfl, hd]

/-- A write stream leaves its status, and the sample of its bytes if and only if that is `OKAY`. -/
theorem State.wrFinish_dev (s : State) :
    s.wrFinish.dev =
      if s.strm.wrResult = .okay then
        { (s.bwSample s.strm.xferBytes s.drawUsecs.1).dev with fluxStatus := .okay }
      else { s.dev with fluxStatus := s.strm.wrResult } := by
  unfold State.wrFinish
  by_cases h : s.strm.wrResult = .okay
  · simp only [h, ↓reduceIte, State.endStream_dev]
    generalize hr : s.setFluxStatus .okay = r
    have hd : r.dev = { s.dev with fluxStatus := .okay } := by rw [← hr]; rfl
    have hb : r.strm = s.strm := by rw [← hr]; rfl
    rw [State.sampleStream_dev, hb, State.drawUsecs_congr s r (by rw [← hr]; rfl) (by rw [← hr]; rfl),
      State.bwSample_dev_of _ _ r s (by rw [hd]) (by rw [hd]), State.bwSample_dev_of _ _ s s rfl rfl, hd]
  · simp only [h, ↓reduceIte, State.endStream_dev]
    rfl

/-- A malformed token: playback stops; at the terminator the stream ends with `BAD_COMMAND`, at any other byte it is
drained. -/
theorem State.fluxBad_spec (b : Byte) (s : State) : ∃ (c : AckCode) (a : Answers) (n : Nat) (t : Stream),
    (b = 0 → c = .badCommand) ∧
    (b ≠ 0 → c = s.dev.fluxStatus ∧ t = { s.strm with wrResult := .badCommand }) ∧
    s.fluxBad b = { s with
      dev := { s.dev with fluxStatus := c }
      frm := { s.frm with mode := if b = 0 then .idle else .wrDrain }
      strm := t
      env := { s.env with act := s.env.act ++ [.playStop], answers := a, draws := n } } := by
  unfold State.fluxBad
  by_cases h : b = 0
  · obtain ⟨mn, mx, a, n, t, e, hb⟩ := State.wrFinish_spec ((s.call .playStop).setWrResult .badCommand)
    obtain ⟨rfl, rfl⟩ := hb (by simp)
    refine ⟨.badCommand, a, n, t, fun _ => rfl, fun h' => absurd h h', ?_⟩
    subst h
    simp only [if_true]
    rw [e]
    rfl
  · refine ⟨s.dev.fluxStatus, s.env.answers, s.env.draws, { s.strm with wrResult := .badCommand },
      fun h' => absurd h' h, fun _ => ⟨rfl, rfl⟩, ?_⟩
    simp only [h, if_false]
    rfl

/-- The end of a source or sink transfer: new extrema and a flush; the stream's registers are gone. -/
theorem State.xferDone_spec (s : State) : ∃ (mn mx : BwPair) (a : Answers) (n : Nat) (t : Stream),
    s.xferDone = { s with
      dev := { s.dev with bwMin := mn, bwMax := mx }
      frm := { s.frm with mode := .idle }
      strm := t
      env := { s.env with tx := s.env.tx ++ [.flush], answers := a, draws := n } } := by
  obtain ⟨mn, mx, a, n, hs⟩ := s.sampleStream_spec
  exact ⟨mn, mx, a, n + 1, Config.deadStream n, by
    rw [State.xferDone, hs]
    simp [State.flush, State.endStream, State.destroyStream, State.countDraw, State.setMode]⟩

/-- The end of a transfer leaves the device registers of its sample. -/
theorem State.xferDone_dev (s : State) : s.xferDone.dev = (s.bwSample s.strm.xferBytes s.drawUsecs.1).dev := by
  rw [← State.sampleStream_dev]; rfl

/-- One byte of a transfer that is not its last only counts. -/
theorem State.transferByte_more (s : State) (h : s.strm.xferLeft ≠ 1) :
    s.transferByte =
      { s with strm := { s.strm with xferLeft := s.strm.xferLeft - 1, xferBytes := s.strm.xferBytes + 1 } } := by
  have hne : ¬ s.strm.xferLeft - 1 = 0 := by bv_omega
  exact if_neg hne

/-- The last byte of a transfer ends it. -/
theorem State.transferByte_last (s : State) (h : s.strm.xferLeft = 1) :
    s.transferByte =
      State.xferDone { s with strm := { s.strm with
        xferLeft := s.strm.xferLeft - 1, xferBytes := s.strm.xferBytes + 1 } } := by
  simp [State.transferByte, h]

/-! ### `CLEAR_COMMS` -/

/-- What a mode has running, stopped. -/
theorem State.stopStream_eq (s : State) :
    s.stopStream = { s with env := { s.env with act := s.env.act ++
      match s.frm.mode with
      | .rdStream => [.captureStop]
      | .wrStream => [.playStop]
      | .wrTail => [.playStop]
      | _ => [] } } := by
  unfold State.stopStream; split <;> simp_all [State.call]

/-- The defaults restored, with their call. -/
theorem State.restoreDefaults_eq (s : State) :
    s.restoreDefaults = { s with
      dev := s.dev.withDefaults s.cfg, env := { s.env with act := s.env.act ++ [.resetDefaults] } } := rfl

/-! ### Index spaces -/

/-- Setting a level of a pin register list is one update in place. -/
theorem setPinLevel_eq_map (p : Byte) (v : Bool) (l : List PinReg) :
    setPinLevel p v l = l.map fun r => if r.id = p then ⟨p, v⟩ else r := by
  induction l with
  | nil => rfl
  | cons r rest ih =>
    simp only [setPinLevel, List.map_cons, ih]
    by_cases h : r.id = p
    · simp [h]
    · simp [h]

/-- Setting a level keeps the pin ids. -/
@[simp] theorem setPinLevel_ids (p : Byte) (v : Bool) (l : List PinReg) :
    (setPinLevel p v l).map PinReg.id = l.map PinReg.id := by
  induction l with
  | nil => rfl
  | cons r rest ih => simp only [setPinLevel, List.map_cons, ih]; by_cases h : r.id = p <;> simp [h]

/-- A pin's level reads as it was written, for a pin that has a register (R27). -/
theorem State.pinRead_pinWrite (p : Byte) (v : Bool) (s : State) (h : p ∈ s.dev.pin.map PinReg.id) :
    (s.pinWrite p v).pinRead p = some v := by
  simp only [State.pinRead, State.pinWrite_dev]
  generalize s.dev.pin = l at h
  induction l with
  | nil => simp at h
  | cons r rest ih =>
    by_cases hr : r.id = p
    · simp [setPinLevel, hr]
    · have h' : p ∈ rest.map PinReg.id := by
        rcases List.mem_map.1 h with ⟨q, hq, rfl⟩
        rcases List.mem_cons.1 hq with rfl | hq
        · exact absurd rfl hr
        · exact List.mem_map.2 ⟨q, hq, rfl⟩
      simpa [setPinLevel, hr] using ih h'

/-- A write of one pin keeps the levels of the others (R27). -/
theorem State.pinRead_pinWrite_ne (p q : Byte) (v : Bool) (s : State) (h : q ≠ p) :
    (s.pinWrite p v).pinRead q = s.pinRead q := by
  simp only [State.pinRead, State.pinWrite_dev]
  generalize s.dev.pin = l
  induction l with
  | nil => rfl
  | cons r rest ih =>
    by_cases hr : r.id = p
    · have hq : ¬ p = q := fun h' => h h'.symm
      have : ¬ r.id = q := by rw [hr]; exact hq
      simpa [setPinLevel, hr, hq, this] using ih
    · by_cases hq : r.id = q <;> simp_all [setPinLevel]

/-- A unit's cylinder reads as it was written, for a unit that exists (R25). -/
theorem State.cylRead_cylWrite (u c : Byte) (s : State) (h : u.toNat < s.dev.cyl.length) :
    (s.cylWrite u c).cylRead u = c := by simp [State.cylRead, h]

/-- A write of one unit's cylinder keeps the others (R25). -/
theorem State.cylRead_cylWrite_ne (u v c : Byte) (s : State) (h : v ≠ u) :
    (s.cylWrite u c).cylRead v = s.cylRead v := by
  have : u.toNat ≠ v.toNat := fun h' => h (BitVec.eq_of_toNat_eq h'.symm)
  simp [State.cylRead, this]

end Sys2Proof.Machine
end

