-- ==== Sys2Proof/Laws/PerInstr.lean ====
section
/-!
SUPPORT. The family `PacketLength`, stated for each instruction: how long its encoding is. A packet is 2 to 255 bytes
and its second byte is its length, or, for a length byte below 2, it is its two header bytes (R90, R100); a flux token
is 1 to 6 bytes (R196, R198); a control write is one value (R103).
-/

namespace Sys2Proof.Laws.PacketLength

/-- The length of a wire's bits is the wire's own. -/
def lengthOk : Wire → Prop
  | .packet bytes =>
    2 ≤ bytes.length ∧ bytes.length ≤ 255 ∧
      ((bytes.getD 1 0).toNat = bytes.length ∨ (bytes.length = 2 ∧ (bytes.getD 1 0).toNat < 2))
  | .token bytes => 1 ≤ bytes.length ∧ bytes.length ≤ 6
  | .ctrl _ => True

/-- The encoding of a well-formed instruction has a legal length. -/
def Statement (i : Instr) : Prop := i.wf = true → lengthOk (encode i)

/-- A packet of at most 253 field bytes. -/
theorem packetOf_ok (op : Byte) (fields : List Byte) (h : fields.length ≤ 253) : lengthOk (packetOf op fields) := by
  have hb := byteOf_toNat (fields.length + 2) (by omega)
  simp only [packetOf, lengthOk, List.length_cons]
  exact ⟨by omega, by omega, .inl hb⟩

/-- The argument of an escape token has at most as many bytes as are left of four. -/
theorem fluxArgOk_length (n : Nat) (arg : List Byte) (h : fluxArgOk n arg = true) : n + arg.length ≤ 4 := by
  induction arg generalizing n with
  | nil => simp [fluxArgOk] at h
  | cons b rest ih =>
    cases rest with
    | nil => simp [fluxArgOk] at h; simp; omega
    | cons c rest =>
      simp only [fluxArgOk, Bool.and_eq_true] at h
      have := ih (n + 1) h.2
      simp only [List.length_cons] at this ⊢
      omega

theorem getInfo (idx : Byte) : Statement (.getInfo idx) := fun _ => packetOf_ok _ _ (by simp)
theorem reserved01 (body : List Byte) : Statement (.reserved01 body) :=
  fun h => packetOf_ok _ _ (by simpa [Instr.wf, packetBodyOk] using h)
theorem seek (cyl : Byte) : Statement (.seek cyl) := fun _ => packetOf_ok _ _ (by simp)
theorem side (sd : Byte) : Statement (.side sd) := fun _ => packetOf_ok _ _ (by simp)
theorem setParams (idx : Byte) (data : List Byte) : Statement (.setParams idx data) :=
  fun h => packetOf_ok _ _ (by simp [Instr.wf] at h ⊢; omega)
theorem getParams (idx nr : Byte) : Statement (.getParams idx nr) := fun _ => packetOf_ok _ _ (by simp)
theorem motor (drive on : Byte) : Statement (.motor drive on) := fun _ => packetOf_ok _ _ (by simp)
theorem readFlux (nrIdx : Option Byte) : Statement (.readFlux nrIdx) :=
  fun _ => packetOf_ok _ _ (by cases nrIdx <;> simp)
theorem writeFlux (tai : Option Byte) : Statement (.writeFlux tai) :=
  fun _ => packetOf_ok _ _ (by cases tai <;> simp)
theorem getFluxStatus : Statement .getFluxStatus := fun _ => packetOf_ok _ _ (by simp)
theorem getIndexTimes (first nr : Byte) : Statement (.getIndexTimes first nr) := fun _ => packetOf_ok _ _ (by simp)
theorem switchFwMode (mode : Byte) : Statement (.switchFwMode mode) := fun _ => packetOf_ok _ _ (by simp)
theorem select (drive : Byte) : Statement (.select drive) := fun _ => packetOf_ok _ _ (by simp)
theorem deselect : Statement .deselect := fun _ => packetOf_ok _ _ (by simp)
theorem setBusType (type : Byte) : Statement (.setBusType type) := fun _ => packetOf_ok _ _ (by simp)
theorem setPin (pin level : Byte) : Statement (.setPin pin level) := fun _ => packetOf_ok _ _ (by simp)
theorem reset : Statement .reset := fun _ => packetOf_ok _ _ (by simp)
theorem eraseFlux (ticks : U32) : Statement (.eraseFlux ticks) := fun _ => packetOf_ok _ _ (by simp [le32])
theorem sourceBytes (n : U32) : Statement (.sourceBytes n) := fun _ => packetOf_ok _ _ (by simp [le32])
theorem sinkBytes (n : U32) : Statement (.sinkBytes n) := fun _ => packetOf_ok _ _ (by simp [le32])
theorem unknown14to17 (op : Byte) (body : List Byte) : Statement (.unknown14to17 op body) :=
  fun h => packetOf_ok _ _ (by simp [Instr.wf, packetBodyOk] at h; exact h.2)
theorem unknown18to1F (op : Byte) (body : List Byte) : Statement (.unknown18to1F op body) :=
  fun h => packetOf_ok _ _ (by simp [Instr.wf, packetBodyOk] at h; exact h.2)
theorem unknown20to3F (op : Byte) (body : List Byte) : Statement (.unknown20to3F op body) :=
  fun h => packetOf_ok _ _ (by simp [Instr.wf, packetBodyOk] at h; exact h.2)
theorem unknown40to7F (op : Byte) (body : List Byte) : Statement (.unknown40to7F op body) :=
  fun h => packetOf_ok _ _ (by simp [Instr.wf, packetBodyOk] at h; exact h.2)
theorem unknown80toFF (op : Byte) (body : List Byte) : Statement (.unknown80toFF op body) :=
  fun h => packetOf_ok _ _ (by simp [Instr.wf, packetBodyOk] at h; exact h.2)
theorem badLength (op len : Byte) : Statement (.badLength op len) :=
  fun h => by simp [Instr.wf] at h; simp [encode, lengthOk, h]
theorem fluxEos : Statement .fluxEos := fun _ => by simp [encode, lengthOk]
theorem fluxShort (b : Byte) : Statement (.fluxShort b) := fun _ => by simp [encode, lengthOk]
theorem fluxMed (b0 b1 : Byte) : Statement (.fluxMed b0 b1) := fun _ => by simp [encode, lengthOk]
theorem fluxIndex (arg : List Byte) : Statement (.fluxIndex arg) := fun h => by
  have := fluxArgOk_length 0 arg h
  simp [encode, lengthOk]; omega
theorem fluxLong (arg : List Byte) : Statement (.fluxLong arg) := fun h => by
  have := fluxArgOk_length 0 arg h
  simp [encode, lengthOk]; omega
theorem fluxReserved (op : Byte) : Statement (.fluxReserved op) := fun _ => by simp [encode, lengthOk]
theorem ctrlNormal (v : U32) : Statement (.ctrlNormal v) := fun _ => trivial
theorem ctrlClearComms : Statement .ctrlClearComms := fun _ => trivial

end Sys2Proof.Laws.PacketLength
end

