-- ==== Sys2Proof/Laws/Step.lean ====
section
/-!
SUPPORT. What one step can do, said once: `step_cases` for the turns and `engineStep_cases` for the engine's own steps.
A claim over every step is proved by taking these apart, and unfolds neither. At the end, runs of several steps.
-/

namespace Sys2Proof.Machine

/-- Every step is one of: the service of `CLEAR_COMMS`, power-on reset, a turn of the host, a control-channel write, an
event, or the engine's own step. In each, `sc` is what the schedule holds afterwards. -/
theorem step_cases (s t : State) (h : step s = .next t) :
    (s.servicesClear = true ∧ ∃ sc, t = State.clearComms { s with env := { s.env with sched := sc } }) ∨
    (s.powersOn = true ∧ ∃ sc, t = State.powerOn { s with env := { s.env with sched := sc } }) ∨
    (∃ sc q p, t = { s with env := { s.env with sched := sc, rxq := q, txPending := p } }) ∨
    (∃ v sc, s.env.sched = .ctrl v :: sc ∧ s.fetched = some (decodeCtrl v) ∧
      exec (decodeCtrl v) { s with env := { s.env with sched := sc } } = .next t) ∨
    (∃ e sc, s.dev.clearPending = false ∧ s.takenEvent = some e ∧ s.servicesClear = false ∧
      t = State.onEvent e { s with env := { s.env with sched := sc } }) ∨
    (∃ sc, s.dev.clearPending = false ∧ (∀ v r, s.env.sched ≠ .ctrl v :: r) ∧ s.servicesClear = false ∧
      s.engineTurn = some { s with env := { s.env with sched := sc } } ∧
      engineStep { s with env := { s.env with sched := sc } } = .next t) := by
  unfold step turn at h
  split at h
  · rename_i hs
    by_cases hc : s.dev.clearPending = true
    · simp only [engineStep, hc, if_true, Host.Outcome.next.injEq] at h
      exact .inl ⟨by simp [State.servicesClear, hc, hs], s.env.sched, h.symm⟩
    · have hc : s.dev.clearPending = false := by simpa using hc
      exact .inr (.inr (.inr (.inr (.inr ⟨s.env.sched, hc, by simp [hs], by simp [State.servicesClear, hc],
        by simp only [State.engineTurn, hc, hs]; rw [if_neg (by simp), ← hs], h⟩))))
  · rename_i sc hs
    by_cases hc : s.dev.clearPending = true
    · simp only [engineStep, hc, if_true, Host.Outcome.next.injEq] at h
      exact .inl ⟨by simp [State.servicesClear, hc, hs], sc, h.symm⟩
    · have hc : s.dev.clearPending = false := by simpa using hc
      exact .inr (.inr (.inr (.inr (.inr ⟨sc, hc, by simp [hs], by simp [State.servicesClear, hc],
        by simp [State.engineTurn, hc, hs], h⟩))))
  · rename_i b sc hs; cases h
    exact .inr (.inr (.inl ⟨sc, s.env.rxq ++ [b], s.env.txPending, rfl⟩))
  · rename_i n sc hs; cases h
    exact .inr (.inr (.inl ⟨sc, s.env.rxq, s.env.txPending.drop n, rfl⟩))
  · rename_i v sc hs
    exact .inr (.inr (.inr (.inl ⟨v, sc, hs, by simp [State.fetched, hs], h⟩)))
  · rename_i e sc hs
    by_cases hc : s.dev.clearPending = true
    · simp only [hc, if_true, Host.Outcome.next.injEq] at h
      exact .inl ⟨by simp [State.servicesClear, hc, hs], s.env.sched, h.symm⟩
    · have hc : s.dev.clearPending = false := by simpa using hc
      simp only [hc, Bool.false_eq_true, if_false, Host.Outcome.next.injEq] at h
      exact .inr (.inr (.inr (.inr (.inl ⟨e, sc, hc, by simp [State.takenEvent, hs, hc],
        by simp [State.servicesClear, hc], h.symm⟩))))
  · rename_i sc hs; cases h
    exact .inr (.inl ⟨by simp [State.powersOn, hs], sc, rfl⟩)

/-- Every engine step with no `CLEAR_COMMS` pending is one of: a filler byte, a byte of an incomplete packet, a packet's
last byte with the packet's instruction or its refusal, a byte inside a token, a token's last byte with the token's
meaning, a drained byte, a sunk byte, or a wait. -/
theorem engineStep_cases (s t : State) (hc : s.dev.clearPending = false) (h : engineStep s = .next t) :
    (s.frm.mode = .src ∧ t = s.sourceByte) ∨
    (∃ b rest, s.frm.mode = .idle ∧ s.env.rxq = b :: rest ∧ (s.accumulate b).frm.complete = none ∧
      t = State.accumulate b { s with env := { s.env with rxq := rest } }) ∨
    (∃ b rest P, s.frm.mode = .idle ∧ s.env.rxq = b :: rest ∧ (s.accumulate b).frm.complete = some P ∧
      ((∃ i, decodePacket P = .ok i ∧
        exec i ((State.accumulate b { s with env := { s.env with rxq := rest } }).setRxCnt 0) = .next t) ∨
      ((∃ why, decodePacket P = .rejected why) ∧
        t = ((State.accumulate b { s with env := { s.env with rxq := rest } }).setRxCnt 0).raiseAck .badCommand))) ∨
    (∃ b rest, s.frm.mode = .wrStream ∧ s.env.rxq = b :: rest ∧ decToken s.strm.dec b = none ∧
      t = State.decodeByte b { s with env := { s.env with rxq := rest } }) ∨
    (∃ b rest i, s.frm.mode = .wrStream ∧ s.env.rxq = b :: rest ∧ decToken s.strm.dec b = some i ∧
      exec i (State.decodeByte b { s with env := { s.env with rxq := rest } }) = .next t) ∨
    (∃ b rest, s.frm.mode = .wrDrain ∧ s.env.rxq = b :: rest ∧
      t = State.drainByte b { s with env := { s.env with rxq := rest } }) ∨
    (∃ b rest, s.frm.mode = .sink ∧ s.env.rxq = b :: rest ∧
      t = State.sinkByte b { s with env := { s.env with rxq := rest } }) ∨
    t = s := by
  simp only [engineStep, hc, Bool.false_eq_true, if_false] at h
  split at h
  · rename_i hm; cases h; exact .inl ⟨hm, rfl⟩
  · rename_i b rest hm hq
    simp only [frameByte] at h
    split at h
    · rename_i P hP
      refine .inr (.inr (.inl ⟨b, rest, P, hm, hq, hP, ?_⟩))
      unfold dispatch at h
      split at h
      · rename_i i hd; exact .inl ⟨i, hd, h⟩
      · rename_i why hd; cases h; exact .inr ⟨⟨why, hd⟩, rfl⟩
    · rename_i hn; cases h; exact .inr (.inl ⟨b, rest, hm, hq, hn, rfl⟩)
  · rename_i b rest hm hq
    simp only [streamByte] at h
    split at h
    · rename_i i hi; exact .inr (.inr (.inr (.inr (.inl ⟨b, rest, i, hm, hq, hi, h⟩))))
    · rename_i hn; cases h; exact .inr (.inr (.inr (.inl ⟨b, rest, hm, hq, hn, rfl⟩)))
  · rename_i b rest hm hq; cases h
    exact .inr (.inr (.inr (.inr (.inr (.inl ⟨b, rest, hm, hq, rfl⟩)))))
  · rename_i b rest hm hq; cases h
    exact .inr (.inr (.inr (.inr (.inr (.inr (.inl ⟨b, rest, hm, hq, rfl⟩))))))
  · cases h; exact .inr (.inr (.inr (.inr (.inr (.inr (.inr rfl))))))

/-! ### Runs -/

/-- No step is no change. -/
@[simp] theorem runSteps_zero (s : State) : runSteps 0 s = .next s := rfl

/-- A run is its first step and the run after it. -/
theorem runSteps_succ (n : Nat) (s : State) :
    runSteps (n + 1) s =
      match step s with
      | .next t => runSteps n t
      | .fault r => .fault r
      | .refused r => .refused r := rfl

/-- A run can be cut in two. -/
theorem runSteps_add (n m : Nat) (s t : State) (h : runSteps n s = .next t) : runSteps (n + m) s = runSteps m t := by
  induction n generalizing s with
  | zero => cases h; rw [Nat.zero_add]
  | succ n ih =>
    rw [Nat.add_right_comm, runSteps_succ]
    rw [runSteps_succ] at h
    cases hs : step s with
    | next u => rw [hs] at h; exact ih u h
    | fault r => rw [hs] at h; cases h
    | refused r => rw [hs] at h; cases h

/-- With no turn of the environment to come, a step is the engine's own. -/
theorem quiet_step (s : State) (h : s.quiet = true) : step s = engineStep s ∧ s.dev.clearPending = false := by
  have h' : s.env.sched = [] ∧ s.dev.clearPending = false := by simpa [State.quiet] using h
  exact ⟨by rw [step, turn, h'.1], h'.2⟩

end Sys2Proof.Machine
end

