-- ==== Sys2Proof/Tests/Slice0.lean ====
section
/-!
SUPPORT. The model's own tests. What a test expects is written out from the spec: the encodings of spec/30_encoding.md
and spec/44_flux_codec.md, and the vectors of spec/95_test_vectors.md, whose numbers (V1.1, P3, ...) are named. The
`test_witness_` theorems show, for each obligation with hypotheses, a state and operands that meet them.
-/

namespace Sys2Proof.Tests

open Sys2Proof Sys2Proof.Machine

/-! ### WellFormed refuses ill-formed terms -/

theorem test_wf_packet_body : (Instr.reserved01 (List.replicate 253 0)).wf = true ∧
    (Instr.reserved01 (List.replicate 254 0)).wf = false := by decide +kernel

theorem test_wf_set_params_data : (Instr.setParams 0 (List.replicate 252 0)).wf = true ∧
    (Instr.setParams 0 (List.replicate 253 0)).wf = false := by decide +kernel

theorem test_wf_unknown_opcodes :
    (Instr.unknown14to17 0x18 []).wf = false ∧ (Instr.unknown14to17 0x13 []).wf = false ∧
    (Instr.unknown18to1F 0x20 []).wf = false ∧ (Instr.unknown20to3F 0x40 []).wf = false ∧
    (Instr.unknown40to7F 0x80 []).wf = false ∧ (Instr.unknown80toFF 0x7F []).wf = false := by decide

theorem test_wf_unknown_bodies :
    (Instr.unknown14to17 0x14 (List.replicate 254 0)).wf = false ∧
    (Instr.unknown18to1F 0x18 (List.replicate 254 0)).wf = false ∧
    (Instr.unknown20to3F 0x20 (List.replicate 254 0)).wf = false ∧
    (Instr.unknown40to7F 0x40 (List.replicate 254 0)).wf = false ∧
    (Instr.unknown80toFF 0x80 (List.replicate 254 0)).wf = false := by decide +kernel

theorem test_wf_bad_length : (Instr.badLength 5 1).wf = true ∧ (Instr.badLength 5 2).wf = false := by decide

theorem test_wf_short_and_med_tokens :
    (Instr.fluxShort 0).wf = false ∧ (Instr.fluxShort 0xFA).wf = false ∧ (Instr.fluxMed 0xF9 1).wf = false ∧
    (Instr.fluxMed 0xFF 1).wf = false := by decide

/-- No argument byte, a fifth one, an even byte that is not the last, and an argument that does not end. -/
theorem test_wf_escape_arguments :
    (Instr.fluxIndex []).wf = false ∧ (Instr.fluxIndex [1, 1, 1, 1, 1]).wf = false ∧
    (Instr.fluxLong [2, 1]).wf = false ∧ (Instr.fluxLong [1, 1, 1]).wf = false := by decide

theorem test_wf_reserved_and_control :
    (Instr.fluxReserved 1).wf = false ∧ (Instr.fluxReserved 2).wf = false ∧ (Instr.ctrlNormal 10000).wf = false := by
  decide

theorem test_wf_decoder_phases :
    (DecPhase.med 0xF9).wf = false ∧ (DecPhase.med 0xFF).wf = false ∧ (DecPhase.arg .long 4 0).wf = false ∧
    (DecPhase.arg .index 1 128).wf = false ∧ (DecPhase.arg .index 3 2097151).wf = true := by decide

theorem test_wf_configurations :
    Config.ref.wf = true ∧ { Config.ref with maxIndex := 0 }.wf = false ∧ { Config.ref with maxIndex := 64 }.wf = false ∧
    { Config.ref with maxUnit := 255 }.wf = false ∧ { Config.ref with sampleFreq := 0 }.wf = false ∧
    { Config.ref with pins := [2, 2] }.wf = false ∧ { Config.ref with delayReset := [] }.wf = false := by decide

/-! ### Decoding: one written word for every constructor -/

theorem test_decode_get_info : decode (.packet [0x00, 0x03, 0x01]) = .ok (.getInfo 1) := by decide
theorem test_decode_reserved01 : decode (.packet [0x01, 0x03, 0x00]) = .ok (.reserved01 [0]) := by decide
theorem test_decode_seek : decode (.packet [0x02, 0x03, 0xFF]) = .ok (.seek 255) := by decide
theorem test_decode_side : decode (.packet [0x03, 0x03, 0x01]) = .ok (.side 1) := by decide
theorem test_decode_set_params : decode (.packet [0x04, 0x0D, 0, 1, 0, 2, 0, 3, 0, 4, 0, 5, 0]) =
    .ok (.setParams 0 [1, 0, 2, 0, 3, 0, 4, 0, 5, 0]) := by decide
theorem test_decode_get_params : decode (.packet [0x05, 0x04, 0x00, 0x0A]) = .ok (.getParams 0 10) := by decide
theorem test_decode_motor : decode (.packet [0x06, 0x04, 0x02, 0xFF]) = .ok (.motor 2 255) := by decide
theorem test_decode_read_flux : decode (.packet [0x07, 0x03, 0x0F]) = .ok (.readFlux (some 15)) ∧
    decode (.packet [0x07, 0x02]) = .ok (.readFlux none) := by decide
theorem test_decode_write_flux : decode (.packet [0x08, 0x03, 0x05]) = .ok (.writeFlux (some 5)) ∧
    decode (.packet [0x08, 0x02]) = .ok (.writeFlux none) := by decide
theorem test_decode_get_flux_status : decode (.packet [0x09, 0x02]) = .ok .getFluxStatus := by decide
theorem test_decode_get_index_times : decode (.packet [0x0A, 0x04, 0x0E, 0x01]) = .ok (.getIndexTimes 14 1) := by
  decide
theorem test_decode_switch_fw_mode : decode (.packet [0x0B, 0x03, 0x01]) = .ok (.switchFwMode 1) := by decide
theorem test_decode_select : decode (.packet [0x0C, 0x03, 0x02]) = .ok (.select 2) := by decide
theorem test_decode_deselect : decode (.packet [0x0D, 0x02]) = .ok .deselect := by decide
theorem test_decode_set_bus_type : decode (.packet [0x0E, 0x03, 0x02]) = .ok (.setBusType 2) := by decide
theorem test_decode_set_pin : decode (.packet [0x0F, 0x04, 0x02, 0x07]) = .ok (.setPin 2 7) := by decide
theorem test_decode_reset : decode (.packet [0x10, 0x02]) = .ok .reset := by decide
theorem test_decode_erase_flux : decode (.packet [0x11, 0x06, 0x40, 0x19, 0x01, 0x00]) = .ok (.eraseFlux 72000) := by
  decide
theorem test_decode_source_bytes : decode (.packet [0x12, 0x06, 0x01, 0x02, 0x03, 0x04]) =
    .ok (.sourceBytes 0x04030201) := by decide
theorem test_decode_sink_bytes : decode (.packet [0x13, 0x06, 0x03, 0x00, 0x00, 0x80]) =
    .ok (.sinkBytes 0x80000003) := by decide
theorem test_decode_unknown_opcodes :
    decode (.packet [0x14, 0x02]) = .ok (.unknown14to17 0x14 []) ∧
    decode (.packet [0x17, 0x03, 0x09]) = .ok (.unknown14to17 0x17 [9]) ∧
    decode (.packet [0x18, 0x02]) = .ok (.unknown18to1F 0x18 []) ∧
    decode (.packet [0x1F, 0x02]) = .ok (.unknown18to1F 0x1F []) ∧
    decode (.packet [0x20, 0x02]) = .ok (.unknown20to3F 0x20 []) ∧
    decode (.packet [0x3F, 0x02]) = .ok (.unknown20to3F 0x3F []) ∧
    decode (.packet [0x40, 0x02]) = .ok (.unknown40to7F 0x40 []) ∧
    decode (.packet [0x7F, 0x02]) = .ok (.unknown40to7F 0x7F []) ∧
    decode (.packet [0x80, 0x02]) = .ok (.unknown80toFF 0x80 []) ∧
    decode (.packet [0xFF, 0x05, 0xAA, 0xBB, 0xCC]) = .ok (.unknown80toFF 0xFF [0xAA, 0xBB, 0xCC]) := by decide
theorem test_decode_bad_length : decode (.packet [0x05, 0x00]) = .ok (.badLength 5 0) ∧
    decode (.packet [0xFF, 0x01]) = .ok (.badLength 0xFF 1) := by decide
theorem test_decode_flux_tokens :
    decode (.token [0x00]) = .ok .fluxEos ∧ decode (.token [0x01]) = .ok (.fluxShort 1) ∧
    decode (.token [0xF9]) = .ok (.fluxShort 249) ∧ decode (.token [0xFA, 0x33]) = .ok (.fluxMed 0xFA 0x33) ∧
    decode (.token [0xFE, 0x00]) = .ok (.fluxMed 0xFE 0) := by decide
theorem test_decode_escape_tokens :
    decode (.token [0xFF, 0x01, 0x51, 0x01, 0x01, 0x01]) = .ok (.fluxIndex [0x51, 1, 1, 1]) ∧
    decode (.token [0xFF, 0x02, 0xA1, 0x1F, 0x01, 0x01]) = .ok (.fluxLong [0xA1, 0x1F, 1, 1]) ∧
    decode (.token [0xFF, 0x01, 0x01, 0x00]) = .ok (.fluxIndex [1, 0]) ∧
    decode (.token [0xFF, 0x03]) = .ok (.fluxReserved 3) := by decide
theorem test_decode_control : decode (.ctrl 10000) = .ok .ctrlClearComms ∧
    decode (.ctrl 9600) = .ok (.ctrlNormal 9600) := by decide

/-- Illegal lengths and incomplete bits are rejected by name (V1.8, V1.9, V1.10, V1.13). -/
theorem test_decode_rejections :
    decode (.packet [0x02, 0x04, 0x05, 0x00]) = .rejected (.illegalLength 2) ∧
    decode (.packet [0x10, 0x03, 0x00]) = .rejected (.illegalLength 0x10) ∧
    decode (.packet [0x07, 0x04, 0x01, 0x02]) = .rejected (.illegalLength 7) ∧
    decode (.packet [0x02, 0x03]) = .rejected .incompletePacket ∧
    decode (.token [0xFF, 0x01, 0x51]) = .rejected .incompleteToken ∧
    decode (.token [0x64, 0x64]) = .rejected .trailingBytes := by decide

/-- The tables of section 2.5 of spec/95_test_vectors.md, their first, last and boundary rows. -/
theorem test_encode_intervals :
    enc 1 = [0x01] ∧ enc 249 = [0xF9] ∧ enc 250 = [0xFA, 0x01] ∧ enc 504 = [0xFA, 0xFF] ∧ enc 505 = [0xFB, 0x01] ∧
    enc 1524 = [0xFE, 0xFF] ∧ enc 1525 = [0xFF, 0x02, 0xEB, 0x17, 0x01, 0x01] ∧
    enc 1000000 = [0xFF, 0x02, 0x81, 0x09, 0x7B, 0x01] ∧ enc 268435455 = [0xFF, 0x02, 0xFF, 0xFF, 0xFF, 0xFF] ∧
    encIndex 40 = [0xFF, 0x01, 0x51, 0x01, 0x01, 0x01] := by decide

theorem test_n28 :
    n28 8191 = [0xFF, 0x7F, 0x01, 0x01] ∧ n28 16384 = [0x01, 0x01, 0x03, 0x01] ∧
    n28 2097152 = [0x01, 0x01, 0x01, 0x03] ∧ un28 [0x81, 0x01, 0x01, 0x01] = 64 := by decide

/-- The words of spec/opcode_table.json, on each of the three wires (R103). -/
theorem test_table_words :
    decodeTableWord 16 0x0203 = some (.seek 0) ∧ decodeTableWord 16 0x0702 = some (.readFlux none) ∧
    decodeTableWord 16 0x8002 = some (.unknown80toFF 0x80 []) ∧ decodeTableWord 16 0x0501 = some (.badLength 5 1) ∧
    decodeTableWord 8 0xF9 = some (.fluxShort 0xF9) ∧ decodeTableWord 8 0xFA = some (.fluxMed 0xFA 0) ∧
    decodeTableWord 16 0xFF03 = some (.fluxReserved 3) ∧ decodeTableWord 16 0xFF01 = some (.fluxIndex [0]) ∧
    decodeTableWord 32 0x2710 = some .ctrlClearComms ∧ decodeTableWord 32 0x2580 = some (.ctrlNormal 9600) := by
  decide

/-! ### One step each, from the vectors -/

/-- After reset, with one answer of each kind to come: those of spec/95_test_vectors.md, and the filler byte 55. -/
def base : State := { State.reset with env := { Env.por with answers := ⟨[.ok], [false], [1000], [0x55]⟩ } }

/-- Unit 1 is selected on an IBM PC bus. -/
def selected : State := { base with dev := { base.dev with busType := .ibmpc, sel := some 1 } }

/-- The state of an outcome. -/
def nextOf : Host.Outcome State Fault Refusal → Option State
  | .next t => some t
  | .fault _ => none
  | .refused _ => none

/-- What a step has added to the traces of a state that had none. -/
def seen (o : Host.Outcome State Fault Refusal) : Option (List TxItem × List ActCall) :=
  (nextOf o).map fun t => (t.env.tx, t.env.act)

/-- An answer: bytes and the flush marker. -/
def reply (bytes : List Byte) : List TxItem := bytes.map .byte ++ [.flush]

/-- V1.1. -/
theorem test_get_info_firmware : seen (exec (.getInfo 0) base) =
    some (reply ([0x00, 0x00, 0x0F, 0x0F, 0x13, 0x00, 0xA2, 0x4A, 0x04, 0x01, 0x00] ++ List.replicate 22 0), []) := by
  decide

/-- V2.2. -/
theorem test_get_info_unknown_index : seen (exec (.getInfo 2) base) = some (reply [0x01], []) := by decide

/-- V7.3. -/
theorem test_get_info_bandwidth :
    seen (exec (.getInfo 1) { base with dev := { base.dev with bwMin := ⟨4, 1000⟩, bwMax := ⟨4, 1000⟩ } }) =
      some (reply ([0x00, 0x04, 0, 0, 0, 0xE8, 0x03, 0, 0, 0x04, 0, 0, 0, 0xE8, 0x03, 0, 0] ++
        List.replicate 16 0), []) := by decide

/-- V3.16. -/
theorem test_seek_moves : (nextOf (exec (.seek 0xFF) selected)).map (fun t => (t.dev.cyl, t.env.tx, t.env.act)) =
    some ([0, 255, 0], reply [0x00], [.seek 1 0 255]) := by decide

/-- V3.24. -/
theorem test_seek_without_track0 :
    (nextOf (exec (.seek 0) { selected with env := { selected.env with answers := ⟨[.noTrk0], [], [], []⟩ } })).map
      (fun t => (t.dev.cyl, t.env.tx, t.env.act)) = some ([0, 0, 0], reply [0x03], [.seek 1 0 0]) := by decide

/-- V3.12. -/
theorem test_side_selects : (nextOf (exec (.side 1) selected)).map (fun t => (t.dev.side, t.env.tx, t.env.act)) =
    some ([false, true, false], reply [0x00], [.side true]) := by decide

/-- V3.21: `NO_UNIT` wins over `BAD_COMMAND`. -/
theorem test_side_without_unit : seen (exec (.side 5) base) = some (reply [0x07], []) := by decide

/-- V2.7. -/
theorem test_set_params_writes_delay :
    (nextOf (exec (.setParams 0 [1, 0, 2, 0, 3, 0, 4, 0, 5, 0]) base)).map (fun t => (t.dev.delay, t.env.tx)) =
      some ([1, 0, 2, 0, 3, 0, 4, 0, 5, 0], reply [0x00]) := by decide

/-- V2.11. -/
theorem test_set_params_wrong_count :
    (nextOf (exec (.setParams 0 [1, 2, 3, 4, 5, 6, 7, 8, 9, 10, 11]) base)).map (fun t => (t.dev, t.env.tx)) =
      some (base.dev, reply [0x01]) := by decide

/-- V2.3. -/
theorem test_get_params_after_reset : seen (exec (.getParams 0 10) base) =
    some (reply [0x00, 0x0A, 0x00, 0x88, 0x13, 0x0F, 0x00, 0xEE, 0x02, 0x10, 0x27], []) := by decide

/-- V3.4. -/
theorem test_motor_any_nonzero : (nextOf (exec (.motor 2 0xFF) base)).map (fun t => (t.dev.motor, t.env.act)) =
    some ([false, false, true], [.motor 2 true]) := by decide

/-- V3.3. -/
theorem test_motor_bad_unit : seen (exec (.motor 3 1) base) = some (reply [0x09], []) := by decide

/-- V6.9. -/
theorem test_read_flux_starts : (nextOf (exec (.readFlux (some 15)) base)).map
    (fun t => (t.frm.mode, t.strm.rdTarget, t.env.tx, t.env.act)) =
      some (.rdStream, 15, reply [0x00], [.captureStart]) := by decide

/-- V6.8. -/
theorem test_read_flux_above_max_index : seen (exec (.readFlux (some 16)) base) = some (reply [0x01], []) := by decide

/-- V6.14, its first line: any nonzero field is true. -/
theorem test_write_flux_starts : (nextOf (exec (.writeFlux (some 5)) base)).map
    (fun t => (t.frm.mode, t.strm.wrTai, t.env.tx, t.env.act)) =
      some (.wrStream, true, reply [0x00], [.wrprot, .playStart true]) := by decide

/-- V6.18. -/
theorem test_write_flux_protected :
    seen (exec (.writeFlux none) { base with env := { base.env with answers := ⟨[], [true], [], []⟩ } }) =
      some (reply [0x06], [.wrprot]) := by decide

/-- V6.16, its last answer. -/
theorem test_get_flux_status_stored :
    seen (exec .getFluxStatus { base with dev := { base.dev with fluxStatus := .fluxUnderflow } }) =
      some (reply [0x05], []) := by decide

/-- P3, step 11. -/
theorem test_get_index_times_after_capture :
    seen (exec (.getIndexTimes 0 2) { base with dev := { base.dev with
      capValid := true, idxTime := [640, 1530] ++ List.replicate 13 0 } }) =
        some (reply [0x00, 0x80, 0x02, 0x00, 0x00, 0xFA, 0x05, 0x00, 0x00], []) := by decide

/-- V2.19: the sum does not wrap. -/
theorem test_get_index_times_no_wrap : seen (exec (.getIndexTimes 255 255) base) = some (reply [0x01], []) := by decide

/-- V4.1 and V4.3. -/
theorem test_switch_fw_mode :
    seen (exec (.switchFwMode 0) base) = some (reply [0x00], [.fwMode .bootloader]) ∧
    seen (exec (.switchFwMode 2) base) = some (reply [0x01], []) := by decide

/-- V3.10. -/
theorem test_select_another_unit :
    (nextOf (exec (.select 2) selected)).map (fun t => (t.dev.sel, t.env.act)) =
      some (some 2, [.deselect, .select 2]) := by decide

/-- V3.1: `NO_BUS`. -/
theorem test_select_without_bus : seen (exec (.select 0) base) = some (reply [0x08], []) := by decide

/-- V3.18. -/
theorem test_deselect : (nextOf (exec .deselect selected)).map (fun t => (t.dev.sel, t.env.tx, t.env.act)) =
    some (none, reply [0x00], [.deselect]) := by decide

/-- P1, step 4. -/
theorem test_set_bus_type_deselects :
    (nextOf (exec (.setBusType 0) selected)).map (fun t => (t.dev.busType, t.dev.sel, t.env.act)) =
      some (.none, none, [.deselect, .bus .none]) := by decide

/-- V3.5. -/
theorem test_set_bus_type_unknown : seen (exec (.setBusType 3) selected) = some (reply [0x01], []) := by decide

/-- V3.13. -/
theorem test_set_pin_low : (nextOf (exec (.setPin 2 0) selected)).map (fun t => (t.dev.pin, t.env.act)) =
    some ([⟨2, false⟩], [.pin 2 false]) := by decide

/-- V3.15 and V3.20. -/
theorem test_set_pin_refusals : seen (exec (.setPin 7 1) selected) = some (reply [0x0A], []) ∧
    seen (exec (.setPin 7 1) base) = some (reply [0x07], []) := by decide

/-- P2, step 8: the device is as after power-on reset. -/
theorem test_reset_restores :
    (nextOf (exec .reset { selected with dev := { selected.dev with
      delay := [1, 0, 2, 0, 3, 0, 4, 0, 5, 0], pin := [⟨2, false⟩], fluxStatus := .noIndex } })).map
        (fun t => (t.dev, t.env.tx, t.env.act)) = some (State.reset.dev, reply [0x00], [.resetDefaults]) := by decide

/-- V6.20. -/
theorem test_erase_flux : seen (exec (.eraseFlux 72000) base) = some (reply [0x00], [.wrprot, .erase 72000]) := by
  decide

/-- V7.2 and V7.1, its acceptance. -/
theorem test_source_bytes :
    (nextOf (exec (.sourceBytes 0) base)).map (fun t => t.frm.mode) = some .idle ∧
    (nextOf (exec (.sourceBytes 4) base)).map (fun t => (t.frm.mode, t.strm.xferLeft, t.env.tx)) =
      some (.src, 4, reply [0x00]) := by decide

/-- V7.4. -/
theorem test_sink_bytes : (nextOf (exec (.sinkBytes 3) base)).map (fun t => (t.frm.mode, t.strm.xferLeft, t.env.tx)) =
    some (.sink, 3, reply [0x00]) := by decide

/-- V1.4, V1.5, V1.6. -/
theorem test_unknown_opcodes_refused :
    seen (exec (.unknown14to17 0x14 []) base) = some (reply [0x01], []) ∧
    seen (exec (.unknown80toFF 0xFF [0xAA, 0xBB, 0xCC]) base) = some (reply [0x01], []) ∧
    seen (exec (.reserved01 []) base) = some (reply [0x01], []) := by decide

/-- V1.2. -/
theorem test_bad_length_refused : seen (exec (.badLength 5 0) base) = some (reply [0x01], []) := by decide

/-- V1.8: an illegal length is refused by the dispatcher. -/
theorem test_illegal_length_refused : seen (dispatch [0x02, 0x04, 0x05, 0x00] selected) = some (reply [0x01], []) := by
  decide

/-! #### Tokens and events -/

/-- A write stream is in progress, `n` bytes of it counted. -/
def writing (tai : Bool) (n : U32) : State :=
  { base with
    frm := { base.frm with mode := .wrStream }
    strm := { base.strm with wrTai := tai, xferBytes := n } }

/-- A read stream of one index pulse is in progress. -/
def reading (target : Byte) : State :=
  { base with
    frm := { base.frm with mode := .rdStream }
    strm := { base.strm with rdTarget := target, rdSeen := 0, rdCum := 0, xferBytes := 0 } }

/-- V5.1 and P5, step 8: the intervals of the tokens. -/
theorem test_tokens_play :
    seen (exec (.fluxShort 0x64) (writing false 1)) = some ([], [.play 100]) ∧
    seen (exec (.fluxMed 0xFE 0xFF) (writing false 2)) = some ([], [.play 1524]) ∧
    seen (exec (.fluxLong [0xEB, 0x17, 1, 1]) (writing false 6)) = some ([], [.play 1525]) ∧
    seen (exec (.fluxIndex [0x51, 1, 1, 1]) (writing false 6)) = some ([], []) := by decide

/-- V6.15 and V6.12. -/
theorem test_terminator :
    (nextOf (exec .fluxEos (writing false 2))).map (fun t => (t.frm.mode, t.dev.fluxStatus, t.dev.bwMin, t.env.act)) =
      some (.idle, .okay, ⟨2, 1000⟩, [.playEnd]) ∧
    (nextOf (exec .fluxEos (writing true 2))).map (fun t => (t.frm.mode, t.env.act)) = some (.wrTail, [.playEnd]) := by
  decide

/-- V5.3, V5.4, V5.5, V5.6 and V5.7. -/
theorem test_malformed_tokens :
    (nextOf (exec (.fluxMed 0xFA 0) (writing false 2))).map (fun t => (t.frm.mode, t.dev.fluxStatus, t.env.act)) =
      some (.idle, .badCommand, [.playStop]) ∧
    (nextOf (exec (.fluxReserved 0) (writing false 2))).map (fun t => (t.frm.mode, t.dev.fluxStatus)) =
      some (.idle, .badCommand) ∧
    (nextOf (exec (.fluxReserved 3) (writing false 2))).map (fun t => (t.frm.mode, t.dev.fluxStatus)) =
      some (.wrDrain, .okay) ∧
    (nextOf (exec (.fluxLong [2]) (writing false 3))).map (fun t => t.frm.mode) = some .wrDrain ∧
    (nextOf (exec (.fluxLong [1, 1, 1, 1]) (writing false 6))).map (fun t => t.frm.mode) = some .wrDrain ∧
    (nextOf (exec (.fluxIndex [1, 0]) (writing false 4))).map (fun t => t.frm.mode) = some .idle := by decide

/-- V8.1 and V8.3, the write itself. -/
theorem test_control_writes :
    (nextOf (exec (.ctrlNormal 9600) base)) = some base ∧
    (nextOf (exec .ctrlClearComms base)).map (fun t => t.dev.clearPending) = some true := by decide +kernel

/-- V6.3 and V6.4: the bounds of an interval and of a marker. -/
theorem test_read_stream_bounds :
    ((reading 1).onEvent (.edge 268435455)).env.tx = [0xFF, 0x02, 0xFF, 0xFF, 0xFF, 0xFF].map .byte ∧
    ((reading 1).onEvent (.edge 268435456)).dev.fluxStatus = .fluxOverflow ∧
    ((reading 1).onEvent (.edge 0)).dev.fluxStatus = .fluxOverflow ∧
    ((reading 1).onEvent (.index 268435456)).env.tx = [.byte 0, .flush] := by decide

/-- V6.6. -/
theorem test_read_stream_completes :
    ((reading 1).onEvent (.index 0)).env.tx = reply [0xFF, 0x01, 0x01, 0x01, 0x01, 0x01, 0x00] ∧
    ((reading 1).onEvent (.index 0)).dev.capValid = true ∧
    ((reading 1).onEvent (.index 0)).dev.bwMin = ⟨7, 1000⟩ ∧ ((reading 1).onEvent (.index 0)).frm.mode = .idle := by
  decide

/-- V6.14, V6.12, V7.1 and V7.6: the samples at the ends of a drain, a tail, a source and a sink. -/
theorem test_samples_at_ends :
    (State.drainByte 0x00 { base with strm := { base.strm with xferBytes := 5 } }).dev.bwMin = ⟨6, 1000⟩ ∧
    (State.tailIndex (writing true 2)).dev.bwMax = ⟨2, 1000⟩ ∧
    (State.sourceByte { base with strm := { base.strm with xferLeft := 1, xferBytes := 3 } }).dev.bwMin =
      ⟨4, 1000⟩ ∧
    (State.sinkByte 0x02 { base with strm := { base.strm with xferLeft := 1, xferBytes := 2 } }).dev.bwMax =
      ⟨3, 1000⟩ := by decide

/-- V7.8: its six samples, in order. -/
theorem test_bandwidth_samples :
    (fun d : Device => (d.bwMin, d.bwMax))
      ((((((base.bwSample 1000 500).bwSample 1000 250).bwSample 1000 1000).bwSample 0 7).bwSample 2000 2000).bwSample
        5 0).dev = (⟨1000, 1000⟩, ⟨1000, 250⟩) := by decide

/-- V8.3 and P4, step 6: the service, in `IDLE` and in the middle of a write stream. -/
theorem test_clear_comms :
    (State.clearComms { selected with dev := { selected.dev with clearPending := true } }).dev = State.reset.dev ∧
    (writing false 2).clearComms.env.act = [.playStop, .resetDefaults] ∧
    (writing false 2).clearComms.env.tx = [.reset] ∧ (writing false 2).clearComms.frm.mode = .idle := by decide

/-- The words of the table run as the first instruction after reset (V1.11, V6.12, V8.8). -/
theorem test_fetch_words :
    seen (step (State.reset.withFetchWord 16 0x0203)) = some (reply [0x07], []) ∧
    seen (step (State.reset.withFetchWord 8 0x64)) = some ([], [.play 100]) ∧
    (nextOf (step (State.reset.withFetchWord 32 10000))).map (fun t => t.dev.clearPending) = some true := by
  decide +kernel

/-! ### Witnesses: encoding -/

theorem test_witness_decode_of_encode :
    (Instr.setParams 0 (List.replicate 252 0xFF)).wf = true ∧ (Instr.reserved01 (List.replicate 253 0)).wf = true ∧
    (Instr.fluxMed 0xFE 0xFF).wf = true ∧ (Instr.fluxLong [0xFF, 0xFF, 0xFF, 0xFF]).wf = true ∧
    (Instr.ctrlNormal 9999).wf = true ∧ Instr.ctrlClearComms.wf = true := by decide +kernel

theorem test_witness_encode_of_decode :
    decode (.packet (0x04 :: 0xFF :: List.replicate 253 0)) = .ok (.setParams 0 (List.replicate 252 0)) ∧
    decode (.token [0xFF, 0x02, 0x01, 0x01, 0x01, 0x01]) = .ok (.fluxLong [1, 1, 1, 1]) ∧
    decode (.ctrl 10001) = .ok (.ctrlNormal 10001) := by decide +kernel

theorem test_witness_shape_checks :
    (List.replicate 253 (0 : Byte)).length ≤ 253 ∧ (known 4 = true ∧ explen 4 255 = true) ∧
    (known 4 = true ∧ explen 4 2 = false) ∧ (known 7 = true ∧ explen 7 3 = true) ∧
    (known 7 = true ∧ explen 7 4 = false) ∧ known 1 = false ∧ known 19 = true ∧ known 20 = false := by decide +kernel

theorem test_witness_n28 :
    268435455 < 2 ^ 28 ∧
    ([0xFF, 0x01, 0xFF, 0x01] : List Byte).length = 4 ∧ ∀ b ∈ ([0xFF, 0x01, 0xFF, 0x01] : List Byte), b.toNat % 2 = 1 := by
  decide

theorem test_witness_encodings :
    (FluxItem.interval 1).ok = true ∧ (FluxItem.interval 268435455).ok = true ∧ (FluxItem.index 0).ok = true ∧
    (FluxItem.index 268435455).ok = true ∧ (FluxItem.interval 0).ok = false ∧
    (FluxItem.index 268435456).ok = false ∧ enc 250 <+: enc 250 := by decide

theorem test_witness_decoder_phases :
    DecPhase.tok.wf = true ∧ (DecPhase.med 0xFA).wf = true ∧ (DecPhase.med 0xFE).wf = true ∧ DecPhase.esc.wf = true ∧
    (DecPhase.arg .long 0 0).wf = true ∧ (DecPhase.arg .long 3 2097151).wf = true := by decide

/-- Each case of `TokenMeaningsFollowTheDecoder` arises. -/
theorem test_witness_yields :
    (decStep .tok 0).2 = .eos ∧ (decStep .tok 249).2 = .interval 249 ∧ (decStep .tok 250).2 = .none ∧
    (decStep (.med 0xFE) 0xFF).2 = .interval 1524 ∧ (decStep (.med 0xFA) 0).2 = .bad 0 ∧
    (decStep .esc 3).2 = .bad 3 ∧ (decStep (.arg .index 3 0) 1).2 = .index 0 ∧
    (decStep (.arg .long 3 2097151) 0xFF).2 = .interval 268435455 ∧ (decStep (.arg .long 3 0) 1).2 = .bad 1 := by decide

/-- S3: the sequence of the source's round trip. -/
def sixIntervals : List FluxItem :=
  [.interval 1, .interval 249, .interval 250, .interval 1524, .interval 1525, .interval 268435455]

theorem test_witness_round_trip :
    (∀ x ∈ sixIntervals, x.ok = true) ∧
    fluxBytes sixIntervals = [0x01, 0xF9, 0xFA, 0x01, 0xFE, 0xFF, 0xFF, 0x02, 0xEB, 0x17, 0x01, 0x01,
      0xFF, 0x02, 0xFF, 0xFF, 0xFF, 0xFF] := by decide

/-! ### Witnesses: steps -/

/-- Bytes wait in `RXQ`. -/
def withRx (bytes : List Byte) (s : State) : State := { s with env := { s.env with rxq := bytes } }

/-- Turns are to come. -/
def withSched (turns : List Turn) (s : State) : State := { s with env := { s.env with sched := turns } }

/-- The framer is in a mode. -/
def inMode (m : Mode) (s : State) : State := { s with frm := { s.frm with mode := m } }

/-- `CLEAR_COMMS` is pending. -/
def pending (s : State) : State := { s with dev := { s.dev with clearPending := true } }

/-- `02 03` has arrived (V1.10). -/
def halfPacket : State := { base with frm := ⟨.idle, 2, 0x02 :: 0x03 :: List.replicate 253 0⟩ }

theorem test_witness_step_runs_packet :
    (withRx [0x05] halfPacket).engineTurn = some (withRx [0x05] halfPacket) ∧ halfPacket.frm.mode = .idle ∧
    ((withRx [0x05] halfPacket).accumulate 0x05).frm.complete = some [0x02, 0x03, 0x05] ∧
    decodePacket [0x02, 0x03, 0x05] = .ok (.seek 5) := by decide +kernel

theorem test_witness_step_runs_token :
    (withRx [0x64] (writing false 0)).engineTurn = some (withRx [0x64] (writing false 0)) ∧
    (writing false 0).frm.mode = .wrStream ∧ decToken (writing false 0).strm.dec 0x64 = some (.fluxShort 0x64) := by
  decide +kernel

theorem test_witness_step_runs_control : (withSched [.ctrl 10000] base).env.sched = .ctrl 10000 :: [] := by decide

theorem test_witness_step_takes_event :
    (withSched [.event .overrun] (reading 1)).dev.clearPending = false ∧
    (withSched [.event .overrun] (reading 1)).env.sched = .event .overrun :: [] := by decide

/-- V1.15 and V1.12: the longest packet and the shortest. -/
theorem test_witness_packet_bytes :
    2 ≤ (0x04 :: 0xFF :: List.replicate 253 (0 : Byte)).length ∧
    ((0x04 :: 0xFF :: List.replicate 253 (0 : Byte)).getD 1 0).toNat =
      (0x04 :: 0xFF :: List.replicate 253 (0 : Byte)).length ∧
    (([0x0D, 0x02] : List Byte).getD 1 0).toNat = ([0x0D, 0x02] : List Byte).length ∧
    (withRx [0x0D, 0x02] base).quiet = true ∧ base.frm.mode = .idle ∧ base.frm.rxCnt = 0 ∧
    base.frm.cbuf.length = 255 := by decide +kernel

theorem test_witness_bad_length :
    (1 : Byte).toNat < 2 ∧ (withRx [0x05, 0x01] base).quiet = true ∧ (withRx [0x05, 0x01] base).env.rxq = [0x05, 0x01] ∧
    base.frm.mode = .idle ∧ base.frm.rxCnt = 0 ∧ base.frm.cbuf.length = 255 := by decide +kernel

/-- With no byte in `IDLE`, and with bytes in the two modes that read none (V6.10). -/
theorem test_witness_waiting :
    (base.quiet = true ∧ base.env.rxq = [] ∧ base.frm.mode ≠ .src) ∧
    ((withRx [0x09, 0x02] (reading 1)).quiet = true ∧ (reading 1).frm.mode = .rdStream) ∧
    ((withRx [0x09, 0x02] (inMode .wrTail (writing true 2))).quiet = true) := by decide

theorem test_witness_clear_priority :
    (pending base).dev.clearPending = true ∧ (pending base).env.sched = [] ∧
    (withSched [.engine] (pending base)).env.sched = .engine :: [] ∧
    (withSched [.event .overrun] (pending (reading 1))).env.sched = .event .overrun :: [] := by decide

theorem test_witness_clear_service_modes :
    (reading 1).frm.mode = .rdStream ∧ (writing true 0).frm.mode = .wrStream ∧
    (inMode .wrTail (writing true 0)).frm.mode = .wrTail ∧ base.frm.mode = .idle ∧
    (inMode .wrDrain base).frm.mode = .wrDrain ∧ (inMode .src base).frm.mode = .src ∧
    (inMode .sink base).frm.mode = .sink := by decide

/-- P4: in the middle of a token of a write stream, the bytes `00 03 00` sent after the service. -/
theorem test_witness_clear_recovers :
    (withSched [.ctrl 10000] (writing false 2)).env.sched = [.ctrl 10000] ∧
    (([0x00, 0x03, 0x00] : List Byte).getD 1 0).toNat = 3 ∧ (writing false 2).frm.cbuf.length = 255 ∧
    (withSched (.ctrl 10000 :: .engine :: ([0x00, 0x03, 0x00] : List Byte).map .hostByte) (writing false 2)).env.sched =
      .ctrl 10000 :: .engine :: ([0x00, 0x03, 0x00] : List Byte).map .hostByte := by decide +kernel

theorem test_witness_environment_turns :
    (withSched [.hostByte 7] base).env.sched = .hostByte 7 :: [] ∧
    (withSched [.hostTake 1] base).env.sched = .hostTake 1 :: [] ∧
    (withSched [.powerOn] (writing false 2)).env.sched = .powerOn :: [] := by decide

/-! ### Witnesses: the whole machine -/

/-- The smallest and the largest legal configuration. -/
theorem test_witness_configurations :
    { Config.ref with maxIndex := 1, maxUnit := 0, pins := [], sampleFreq := 1 }.wf = true ∧
    { Config.ref with maxIndex := 63, maxUnit := 254 }.wf = true := by decide

/-- A state of each mode that meets the invariant, and takes a step. -/
theorem test_witness_invariant :
    (withRx [0x05] halfPacket).Inv = true ∧ (reading 1).Inv = true ∧ (withRx [0x00] (writing true 0)).Inv = true ∧
    (withRx [0x00] (inMode .wrDrain base)).Inv = true ∧ (inMode .wrTail (writing true 0)).Inv = true ∧
    (inMode .src { base with strm := { base.strm with xferLeft := 1 } }).Inv = true ∧
    (withRx [0x00] (inMode .sink { base with strm := { base.strm with xferLeft := 1 } })).Inv = true ∧
    (nextOf (step (withRx [0x05] halfPacket))).isSome = true := by decide +kernel

/-- The mode after one step. -/
def modeAfter (s : State) : Option Mode := (nextOf (step s)).map fun t => t.frm.mode

/-- The mode after an event. -/
def modeAfterEvent (e : Event) (s : State) : Option Mode := modeAfter (withSched [.event e] s)

/-- Every row of R132 happens: the entries of the modes. -/
theorem test_witness_mode_entries :
    modeAfter (State.withFetchWord base 16 0x0702) = some .rdStream ∧
    modeAfter (State.withFetchWord base 16 0x0802) = some .wrStream ∧
    modeAfter (withRx [0x80] { base with frm := ⟨.idle, 5, 0x12 :: 0x06 :: List.replicate 253 0⟩ }) = some .src ∧
    modeAfter (withRx [0x80] { base with frm := ⟨.idle, 5, 0x13 :: 0x06 :: List.replicate 253 0⟩ }) = some .sink ∧
    modeAfter (withRx [0x00] (writing true 0)) = some .wrTail ∧
    modeAfterEvent .underrun (writing false 0) = some .wrDrain ∧
    modeAfterEvent (.index 0) (writing true 0) = some .wrDrain ∧
    modeAfter (withRx [0x03] { writing false 0 with strm := { base.strm with dec := .esc } }) = some .wrDrain := by
  decide +kernel

/-- Every row of R132 happens: the ends of the modes. -/
theorem test_witness_mode_ends :
    modeAfterEvent (.index 5) (reading 1) = some .idle ∧ modeAfterEvent (.edge 0) (reading 1) = some .idle ∧
    modeAfterEvent .overrun (reading 1) = some .idle ∧ modeAfterEvent .noIndex (reading 1) = some .idle ∧
    modeAfter (withRx [0x00] (writing false 0)) = some .idle ∧
    modeAfter (withRx [0x00] { writing false 0 with strm := { base.strm with dec := .esc } }) = some .idle ∧
    modeAfter (withRx [0x00] (inMode .wrDrain base)) = some .idle ∧
    modeAfterEvent (.index 0) (inMode .wrTail (writing true 0)) = some .idle ∧
    modeAfterEvent .noIndex (inMode .wrTail (writing true 0)) = some .idle ∧
    modeAfter (inMode .src { base with strm := { base.strm with xferLeft := 1 } }) = some .idle ∧
    modeAfter (withRx [0x00] (inMode .sink { base with strm := { base.strm with xferLeft := 1 } })) = some .idle ∧
    modeAfter (pending (reading 1)) = some .idle ∧ modeAfter (withSched [.powerOn] (reading 1)) = some .idle := by
  decide +kernel

/-- The writers of the status, the statistics and the latch write them. -/
theorem test_witness_writers :
    (nextOf (step (withSched [.event .overrun] (reading 1)))).map (fun t => t.dev.fluxStatus) = some .fluxOverflow ∧
    (nextOf (step (withSched [.event (.index 0)] (reading 1)))).map (fun t => t.dev.bwMax) = some ⟨7, 1000⟩ ∧
    (nextOf (step (withSched [.ctrl 10000] base))).map (fun t => t.dev.clearPending) = some true ∧
    (nextOf (step (pending base))).map (fun t => t.dev.clearPending) = some false ∧
    (nextOf (step base)).isSome = true ∧ (nextOf (exec (.motor 2 1) base)).isSome = true := by decide +kernel

theorem test_witness_leading_ack :
    isPacket (.seek 5) = true ∧ fluxStatusOk base.dev.fluxStatus = true ∧
    (nextOf (exec (.seek 5) base)).isSome = true := by decide

/-- V3.24: a physical error is a refusal too. -/
theorem test_witness_refusal :
    isPacket (.seek 0) = true ∧ Instr.seek 0 ≠ .getFluxStatus ∧ AckCode.noTrk0 ≠ .okay ∧
    (nextOf (exec (.seek 0) { selected with env := { selected.env with answers := ⟨[.noTrk0], [], [], []⟩ } })).map
      (fun t => t.env.tx) = some [.byte AckCode.noTrk0.toByte, .flush] := by decide

theorem test_witness_bandwidth :
    bwOk base.dev.bwMin base.dev.bwMax = true ∧ base.dev.bwMin.usecs = 0 ∧
    bwOk ⟨1000, 1000⟩ ⟨1000, 250⟩ = true ∧ (⟨1000, 1000⟩ : BwPair).usecs ≠ 0 ∧ (5 : U32) ≠ 0 := by decide

/-! ### Witnesses: commands -/

theorem test_witness_parameter_commands :
    ([] : List Byte).length ≤ 252 ∧ (List.replicate 252 (0 : Byte)).length ≤ 252 ∧
    (List.replicate 252 (0 : Byte)).length ≠ 10 ∧ base.dev.delay.length = 10 := by decide +kernel

/-- P2, steps 2 to 9, without the RESET. -/
theorem test_witness_parameter_round_trip :
    base.dev.delay.length = 10 ∧ (nextOf (exec (.setParams 0 base.dev.delay) selected)).isSome = true ∧
    (∀ i ∈ [Instr.setBusType 2, .select 1, .motor 1 1], i ≠ .reset) ∧
    (nextOf (execAll [.setBusType 2, .select 1, .motor 1 1] selected)).isSome = true := by decide

/-- V2.16 and V2.18, the two sides of the bound. -/
theorem test_witness_index_times :
    (15 : Byte).toNat + (0 : Byte).toNat ≤ base.cfg.maxIndex.toNat ∧
    (1 : Byte).toNat + (15 : Byte).toNat > base.cfg.maxIndex.toNat := by decide

theorem test_witness_drive_commands :
    base.dev.sel = none ∧ selected.dev.sel = some 1 ∧ (selected.actSeek 1 0 5).1 = .ok ∧
    (State.actSeek 1 0 5 { selected with env := { selected.env with answers := ⟨[.noTrk0], [], [], []⟩ } }).1 = .noTrk0 ∧
    (1 : Byte).toNat ≤ 1 ∧ (2 : Byte).toNat > 1 ∧ (2 : Byte).toNat ≤ base.cfg.maxUnit.toNat ∧
    (3 : Byte).toNat > base.cfg.maxUnit.toNat ∧ base.dev.busType = .none ∧ selected.dev.busType ≠ .none ∧
    (1 : Byte) ≠ 2 := by decide

/-- A bus with no unit selected. -/
theorem test_witness_select_none :
    ({ selected with dev := { selected.dev with sel := none } } : State).dev.busType ≠ .none ∧
    ({ selected with dev := { selected.dev with sel := none } } : State).dev.sel = none := by decide

theorem test_witness_pin_commands :
    selected.dev.sel ≠ none ∧ 2 ∈ selected.cfg.pins ∧ 7 ∉ selected.cfg.pins ∧ (3 : Byte).toNat > 2 ∧
    (2 : Byte).toNat > 1 := by decide

theorem test_witness_read_flux :
    (some 15 : Option Byte) = some 15 ∧ (15 : Byte) ≠ 0 ∧ (15 : Byte).toNat ≤ base.cfg.maxIndex.toNat ∧
    (16 : Byte).toNat > base.cfg.maxIndex.toNat := by decide

theorem test_witness_write_flux :
    base.actWrprot.1 = false ∧ true = decide ((5 : Byte) ≠ 0) ∧ false = decide ((0 : Byte) ≠ 0) ∧
    (State.actWrprot { base with env := { base.env with answers := ⟨[], [true], [], []⟩ } }).1 = true := by decide

theorem test_witness_u32_fields :
    (72000 : U32).toNat = (0x40 : Byte).toNat + 2 ^ 8 * (0x19 : Byte).toNat + 2 ^ 16 * (0x01 : Byte).toNat +
      2 ^ 24 * (0x00 : Byte).toNat ∧
    (4294967295 : U32).toNat = (0xFF : Byte).toNat + 2 ^ 8 * (0xFF : Byte).toNat + 2 ^ 16 * (0xFF : Byte).toNat +
      2 ^ 24 * (0xFF : Byte).toNat ∧ (0 : U32).toNat = 0 ∧ (1 : U32) ≠ 0 := by decide

/-! ### Witnesses: tokens and streams -/

theorem test_witness_tokens :
    (1 ≤ (0xF9 : Byte).toNat ∧ (0xF9 : Byte).toNat ≤ 249) ∧ (1 ≤ (0x01 : Byte).toNat ∧ (0x01 : Byte).toNat ≤ 249) ∧
    (250 ≤ (0xFA : Byte).toNat ∧ (0xFE : Byte).toNat ≤ 254 ∧ 1 ≤ (0x01 : Byte).toNat) ∧
    (1 ≤ 268435455 ∧ 268435455 < 2 ^ 28) ∧ (writing true 0).strm.wrTai = true ∧ (writing false 0).strm.wrTai = false ∧
    (writing false 0).strm.wrResult = .okay ∧
    ((writing false 0).setWrResult .badCommand).strm.wrResult ≠ .okay := by decide

theorem test_witness_malformed :
    malformedByte (.fluxMed 0xFA 0) = some 0 ∧ malformedByte (.fluxReserved 3) = some 3 ∧
    malformedByte (.fluxReserved 0) = some 0 ∧ malformedByte (.fluxIndex [1, 0]) = some 0 ∧
    malformedByte (.fluxIndex [2]) = some 2 ∧ malformedByte (.fluxLong [1, 1, 1, 1]) = some 1 ∧
    malformedByte (.fluxLong [1, 1, 1, 0]) = some 0 := by decide

/-- A read of two pulses: the first does not complete it, and the read of one that the next does (V6.1 to V6.6). -/
theorem test_witness_read_stream :
    (reading 2).frm.mode = .rdStream ∧ (reading 2).strm.rdSeen + 1 ≠ (reading 2).strm.rdTarget ∧
    (reading 1).strm.rdSeen + 1 = (reading 1).strm.rdTarget ∧ (reading 1).drawUsecs.1 = 1000 ∧
    268435455 ≤ tickMax ∧ 268435456 > tickMax := by decide

/-- P3, steps 2 to 8: the events of a capture that asked for two pulses. -/
def p3Items : List FluxItem :=
  [.interval 200, .interval 300, .interval 100, .index 40, .interval 250, .interval 400, .interval 200]

theorem test_witness_capture :
    (∀ x ∈ p3Items, x.ok = true) ∧ (reading 2).frm.mode = .rdStream ∧ (reading 2).dev.clearPending = false ∧
    (reading 2).strm.rdSeen.toNat + p3Items.countP FluxItem.isIndex < (reading 2).strm.rdTarget.toNat ∧
    (withSched (p3Items.map fun x => .event x.event) (reading 2)).env.sched =
      p3Items.map (fun x => .event x.event) ++ [] ∧
    fluxBytes p3Items = [0xC8, 0xFA, 0x33, 0x64, 0xFF, 0x01, 0x51, 0x01, 0x01, 0x01, 0xFA, 0x01, 0xFA, 0x97, 0xC8] := by
  decide

/-- P3, steps 2 to 9: the whole capture, its stream, and its index times. -/
theorem test_witness_completed_capture :
    80 ≤ tickMax ∧
    (reading 2).strm.rdSeen.toNat + p3Items.countP FluxItem.isIndex + 1 = (reading 2).strm.rdTarget.toNat ∧
    (withSched ((p3Items ++ [FluxItem.index 80]).map fun x => .event x.event) (reading 2)).env.sched =
      (p3Items ++ [FluxItem.index 80]).map (fun x => .event x.event) ++ [] ∧
    fluxBytes (p3Items ++ [.index 80]) ++ [0x00] = [0xC8, 0xFA, 0x33, 0x64, 0xFF, 0x01, 0x51, 0x01, 0x01, 0x01,
      0xFA, 0x01, 0xFA, 0x97, 0xC8, 0xFF, 0x01, 0xA1, 0x01, 0x01, 0x01, 0x00] ∧
    timesAfter 0 0 (p3Items ++ [.index 80]) [0, 0, 0] = [640, 1530, 0] := by decide

/-- P5, step 8: its intervals, before the terminator. -/
theorem test_witness_replay :
    (writing false 0).frm.mode = .wrStream ∧ (withRx (fluxBytes sixIntervals) (writing false 0)).quiet = true ∧
    (writing false 0).strm.dec = .tok ∧
    (withRx (fluxBytes sixIntervals ++ [0x00]) (writing false 0)).env.rxq = fluxBytes sixIntervals ++ [0x00] := by
  decide

theorem test_witness_write_events :
    (writing true 0).frm.mode = .wrStream ∧ (writing true 0).env.rxq = [] ∧ (writing false 0).strm.wrTai = false ∧
    (inMode .wrTail (writing true 0)).frm.mode = .wrTail ∧
    (inMode .wrTail (writing true 0)).strm.wrResult = .okay := by decide

theorem test_witness_unaccepted_events :
    (withSched [.event (.edge 5)] base).dev.clearPending = false ∧
    accepts base.frm.mode base.env.rxq (.edge 5) = false ∧ accepts .wrTail [] .underrun = false ∧
    accepts .wrStream [] .noIndex = false ∧ accepts .wrStream [] .underrun = true ∧
    (withRx [0x64] (writing false 0)).dev.clearPending = false ∧
    accepts (writing false 0).frm.mode (withRx [0x64] (writing false 0)).env.rxq .underrun = false := by decide

/-- V6.14: `66 FF 07` are drained, and `00` ends the drain. -/
theorem test_witness_drain :
    (withRx [0x66, 0xFF, 0x07, 0x00, 0x09, 0x02] (inMode .wrDrain base)).quiet = true ∧
    (0 : Byte) ∉ ([0x66, 0xFF, 0x07] : List Byte) ∧ (inMode .wrDrain base).frm.mode = .wrDrain ∧
    (inMode .wrDrain base).strm.wrResult = .okay ∧
    (inMode .wrDrain ((writing false 1).setWrResult .fluxUnderflow)).strm.wrResult ≠ .okay := by decide

/-- V7.1 and V7.5. -/
theorem test_witness_transfers :
    (inMode .src { base with strm := { base.strm with xferLeft := 4 } }).quiet = true ∧
    (inMode .src { base with strm := { base.strm with xferLeft := 4 } }).strm.xferLeft ≠ 0 ∧
    (withRx [0x00, 0x10, 0x02, 0x0D] (inMode .sink { base with strm := { base.strm with xferLeft := 3 } })).quiet = true ∧
    ([0x00, 0x10, 0x02] : List Byte).length = (3 : U32).toNat := by decide

end Sys2Proof.Tests
end

section
/-!
The collaborator's events that the mode does not accept (R13, R247): such an event leaves the state as it is, and the
step that takes it changes the schedule only.
-/

namespace Sys2Proof.Machine

/-- With no `CLEAR_COMMS` pending, a turn that is an event is consumed by that event's arm of the engine. -/
theorem step_of_event (e : Event) (rest : List Turn) (s : State) (hc : s.dev.clearPending = false)
    (hs : s.env.sched = .event e :: rest) :
    step s = .next (State.onEvent e { s with env := { s.env with sched := rest } }) := by
  simp [step, turn, hs, hc]

/-- An underrun is no underrun while a byte waits in `RXQ` (log entry 7). -/
theorem State.writeUnderrun_of_waiting (s : State) (h : s.env.rxq ≠ []) : s.writeUnderrun = s := if_neg h

/-- An event that is not accepted is ignored: every arm of `onEvent` but the last is one of an accepted event, the
underrun's arm where `RXQ` is empty. -/
theorem State.onEvent_of_not_accepts (e : Event) (s : State) (h : accepts s.frm.mode s.env.rxq e = false) :
    s.onEvent e = s := by
  unfold State.onEvent
  split
  case h_6 hm => -- `EV_UNDERRUN` in `WR_STREAM`
    exact s.writeUnderrun_of_waiting (by simpa [accepts, hm] using h)
  case h_9 => rfl -- an event that the mode does not list
  all_goals -- an accepted event, against `h`
    rename_i hm
    simp [accepts, hm] at h

/-- Settles O57: the step is the event's arm, and that arm leaves the state as it is. -/
theorem unacceptedEventsIgnored : Obligations.UnacceptedEventsIgnored := by
  intro e rest s hc hs ha
  have ignored := State.onEvent_of_not_accepts e { s with env := { s.env with sched := rest } } ha
  exact (step_of_event e rest s hc hs).trans (congrArg Host.Outcome.next ignored)

end Sys2Proof.Machine
end

section
/-!
Dispatch judges a packet's shape before any handler runs (R125, R126): each row of the opcode map accepts exactly the
lengths that R92's table lists for it and yields a command; every other packet is refused. The formats of
`commandFormat` and the lengths of `explen` are two tables, written independently: `commandFormat_meets_explen`
compares them row by row.
-/

namespace Sys2Proof.Machine

/-- The format yields a command on the bodies of the legal packet lengths, and nothing on the others. -/
def FormatMeets (format : List Byte → Option Instr) (legal : Nat → Bool) : Prop :=
  ∀ body : List Byte, body.length ≤ 253 →
    (legal (body.length + 2) = true → ∃ i, format body = some i ∧ leadingAcks i ≠ [.badCommand]) ∧
    (legal (body.length + 2) = false → format body = none)

theorem formatF0_meets (i : Instr) (hi : leadingAcks i ≠ [.badCommand]) :
    FormatMeets (formatF0 i) fun len => decide (len = 2)
  | [], _ => by simp [formatF0, hi]
  | _ :: _, _ => by simp [formatF0]

theorem formatF1_meets (mk : Byte → Instr) (hi : ∀ a, leadingAcks (mk a) ≠ [.badCommand]) :
    FormatMeets (formatF1 mk) fun len => decide (len = 3)
  | [], _ => by simp [formatF1]
  | [_], _ => by simp [formatF1, hi]
  | _ :: _ :: _, _ => by simp [formatF1]

theorem formatF2_meets (mk : Byte → Byte → Instr) (hi : ∀ a b, leadingAcks (mk a b) ≠ [.badCommand]) :
    FormatMeets (formatF2 mk) fun len => decide (len = 4)
  | [], _ | [_], _ => by simp [formatF2]
  | [_, _], _ => by simp [formatF2, hi]
  | _ :: _ :: _ :: _, _ => by simp [formatF2]

theorem formatF4_meets (mk : U32 → Instr) (hi : ∀ v, leadingAcks (mk v) ≠ [.badCommand]) :
    FormatMeets (formatF4 mk) fun len => decide (len = 6)
  | [], _ | [_], _ | [_, _], _ | [_, _, _], _ => by simp [formatF4]
  | [_, _, _, _], _ => by simp [formatF4, hi]
  | _ :: _ :: _ :: _ :: _ :: _, _ => by simp [formatF4]

theorem formatFO_meets (mk : Option Byte → Instr) (hi : ∀ a, leadingAcks (mk a) ≠ [.badCommand]) :
    FormatMeets (formatFO mk) fun len => decide (len = 2 ∨ len = 3)
  | [], _ | [_], _ => by simp [formatFO, hi]
  | _ :: _ :: _, _ => by simp [formatFO]

theorem formatFV_meets (mk : Byte → List Byte → Instr) (hi : ∀ a data, leadingAcks (mk a data) ≠ [.badCommand]) :
    FormatMeets (formatFV mk) fun len => decide (3 ≤ len ∧ len ≤ 255)
  | [], _ => by simp [formatFV]
  | a :: data, hl => ⟨fun _ => ⟨mk a data, rfl, hi a data⟩, fun hillegal => by
    simp only [List.length_cons, decide_eq_false_iff_not] at hillegal hl
    omega⟩

/-- R92's table against the opcode map, in the order of the opcodes. -/
theorem commandFormat_meets_explen (op : Byte) (hk : known op = true) :
    ∃ format, commandFormat op.toNat = some format ∧ FormatMeets format (explen op) := by
  have hn : op.toNat = 0 ∨ (2 ≤ op.toNat ∧ op.toNat ≤ 19) := by simpa [known] using hk
  unfold explen
  generalize op.toNat = n at hn ⊢
  match n, hn with
  | 0, _ => exact ⟨_, rfl, formatF1_meets .getInfo fun _ => nofun⟩
  | 2, _ => exact ⟨_, rfl, formatF1_meets .seek fun _ => nofun⟩
  | 3, _ => exact ⟨_, rfl, formatF1_meets .side fun _ => nofun⟩
  | 4, _ => exact ⟨_, rfl, formatFV_meets .setParams fun _ _ => nofun⟩
  | 5, _ => exact ⟨_, rfl, formatF2_meets .getParams fun _ _ => nofun⟩
  | 6, _ => exact ⟨_, rfl, formatF2_meets .motor fun _ _ => nofun⟩
  | 7, _ => exact ⟨_, rfl, formatFO_meets .readFlux fun _ => nofun⟩
  | 8, _ => exact ⟨_, rfl, formatFO_meets .writeFlux fun _ => nofun⟩
  | 9, _ => exact ⟨_, rfl, formatF0_meets .getFluxStatus nofun⟩
  | 10, _ => exact ⟨_, rfl, formatF2_meets .getIndexTimes fun _ _ => nofun⟩
  | 11, _ => exact ⟨_, rfl, formatF1_meets .switchFwMode fun _ => nofun⟩
  | 12, _ => exact ⟨_, rfl, formatF1_meets .select fun _ => nofun⟩
  | 13, _ => exact ⟨_, rfl, formatF0_meets .deselect nofun⟩
  | 14, _ => exact ⟨_, rfl, formatF1_meets .setBusType fun _ => nofun⟩
  | 15, _ => exact ⟨_, rfl, formatF2_meets .setPin fun _ _ => nofun⟩
  | 16, _ => exact ⟨_, rfl, formatF0_meets .reset nofun⟩
  | 17, _ => exact ⟨_, rfl, formatF4_meets .eraseFlux fun _ => nofun⟩
  | 18, _ => exact ⟨_, rfl, formatF4_meets .sourceBytes fun _ => nofun⟩
  | 19, _ => exact ⟨_, rfl, formatF4_meets .sinkBytes fun _ => nofun⟩
  | _ + 20, hn => omega

/-- The opcodes that are not known, 1 and those above 19, have no row (R99). -/
theorem commandFormat_of_not_known (op : Byte) (hk : known op = false) : commandFormat op.toNat = none := by
  simp only [known, decide_eq_false_iff_not] at hk
  exact commandFormat_none op.toNat (by omega)

/-! ### What dispatch does with what the packet decodes to -/

theorem dispatch_of_decoded (bytes : List Byte) (i : Instr) (s : State) (h : decodePacket bytes = .ok i) :
    dispatch bytes s = exec i s := by
  rw [dispatch, h]

theorem dispatch_of_rejected (bytes : List Byte) (why : DecodeReject) (s : State)
    (h : decodePacket bytes = .rejected why) : dispatch bytes s = .next (s.refused .badCommand) := by
  rw [dispatch, h, ← State.raiseAck_eq]

/-- Whatever the range of the opcode, the row's meaning is the refusal (R125). -/
theorem exec_illegalRow (op : Byte) (body : List Byte) (s : State) :
    exec (illegalRow op body) s = .next (s.refused .badCommand) := by
  unfold illegalRow
  split_ifs <;> exact congrArg Host.Outcome.next (s.raiseAck_eq .badCommand)

/-- Settles O3: by the opcode map's row where the opcode is known, and by the rows of R100 where it is not. -/
theorem shapeChecksOfDispatch : Obligations.ShapeChecksOfDispatch := by
  intro op body s hl
  refine ⟨fun hk he => ?legal, fun hk he => ?illegal, fun hk => ?unknown⟩
  case legal =>
    obtain ⟨format, hrow, hmeets⟩ := commandFormat_meets_explen op hk
    obtain ⟨i, hi, hcommand⟩ := (hmeets body hl).1 he
    have hd : decodePacket (op :: byteOf (body.length + 2) :: body) = .ok i := by
      simp [decodePacket_packet op body hl, hrow, hi]
    exact ⟨i, hd, hcommand, dispatch_of_decoded _ i s hd⟩
  case illegal =>
    obtain ⟨format, hrow, hmeets⟩ := commandFormat_meets_explen op hk
    have hnone := (hmeets body hl).2 he
    exact dispatch_of_rejected _ (.illegalLength op) s (by simp [decodePacket_packet op body hl, hrow, hnone])
  case unknown =>
    have hrow := commandFormat_of_not_known op hk
    exact (dispatch_of_decoded _ (illegalRow op body) s (by simp [decodePacket_packet op body hl, hrow])).trans
      (exec_illegalRow op body s)

end Sys2Proof.Machine
end

section
/-!
A length byte below 2 (R124): the framer judges it when it arrives, so the two header bytes are all it consumes.
-/

namespace Sys2Proof.Machine

/-- With only engine turns to come, a step in `IDLE` gives the next byte of `RXQ` to the framer (R121). -/
theorem step_of_idle_byte (b : Byte) (rest : List Byte) (s : State) (hq : s.quiet = true) (hm : s.frm.mode = .idle)
    (hrx : s.env.rxq = b :: rest) : step s = frameByte b { s with env := { s.env with rxq := rest } } := by
  obtain ⟨hstep, hclear⟩ := quiet_step s hq
  simp [hstep, engineStep, hclear, hm, hrx]

/-- The first byte of a packet is held and not yet judged (R122). -/
theorem frameByte_opcode (op : Byte) (s : State) (hn : s.frm.rxCnt = 0) : frameByte op s = .next (s.accumulate op) := by
  have hincomplete : (s.accumulate op).frm.complete = none := by simp [Framer.complete, hn]
  rw [frameByte, hincomplete]

/-- A length byte below 2 makes the two header bytes a packet of their own, and its meaning is the refusal. -/
theorem frameByte_badLength (op len : Byte) (buf : List Byte) (s : State) (hlen : len.toNat < 2)
    (hn : s.frm.rxCnt = 1) (hbuf : s.frm.cbuf.set 1 len = op :: len :: buf) :
    frameByte len s = .next ((s.accumulate len).refused .badCommand) := by
  have hcomplete : (s.accumulate len).frm.complete = some [op, len] := by simp [Framer.complete, hn, hbuf, hlen]
  have hdecode : decodePacket [op, len] = .ok (.badLength op len) := by simp [decodePacket, hlen]
  rw [frameByte, hcomplete]
  calc dispatch [op, len] ((s.accumulate len).setRxCnt 0)
    _ = exec (.badLength op len) ((s.accumulate len).setRxCnt 0) := dispatch_of_decoded _ _ _ hdecode
    _ = .next ((s.accumulate len).raiseAck .badCommand) := rfl
    _ = .next ((s.accumulate len).refused .badCommand) := by rw [State.raiseAck_eq]

/-- The two header bytes of a packet, accumulated from a packet boundary. -/
theorem set_header (op len : Byte) : ∀ buf : List Byte, 2 ≤ buf.length →
    (buf.set 0 op).set 1 len = op :: len :: buf.drop 2
  | _ :: _ :: _, _ => rfl

/-- A run whose first step is known goes on from there. -/
theorem runSteps_of_step (n : Nat) (s t : State) (h : step s = .next t) : runSteps (n + 1) s = runSteps n t := by
  rw [runSteps_succ, h]

/-- Settles O11: the opcode byte is held, and the length byte makes the two a packet that is refused. -/
theorem badLengthByteRefused : Obligations.BadLengthByteRefused := by
  intro op len rest s hlen hq hm hn hbuf hrx
  have header := set_header op len s.frm.cbuf (by omega)
  have first := (step_of_idle_byte op (len :: rest) s hq hm hrx).trans (frameByte_opcode op _ hn)
  generalize ht : State.accumulate op _ = t at first
  have hqt : t.quiet = true := by simpa [← ht, State.quiet] using hq
  have hmt : t.frm.mode = .idle := by simp [← ht, hm]
  have hnt : t.frm.rxCnt = 1 := by simp [← ht, hn]
  have hbuft : t.frm.cbuf.set 1 len = op :: len :: s.frm.cbuf.drop 2 := by simp [← ht, hn, header]
  have second := (step_of_idle_byte len rest t hqt hmt (by simp [← ht])).trans
    (frameByte_badLength op len _ _ hlen hnt hbuft)
  rw [runSteps_of_step 1 s t first, runSteps_of_step 0 t _ second, runSteps_zero]
  simp [← ht, State.accumulate, State.refused, hn, header]

end Sys2Proof.Machine
end

section
/-!
The information and parameter commands (R150, R152, R154): CMD_GET_INFO, CMD_GET_PARAMS and CMD_SET_PARAMS. One lemma
per command says its whole next state, acceptance or refusal; `decodePacket_of_format` reads their packets.
-/

namespace Sys2Proof.Machine

/-- A packet whose opcode has a format decodes to what that format makes of its fields. -/
theorem decodePacket_of_format (op : Byte) (fields : List Byte) (format : List Byte → Option Instr) (i : Instr)
    (hl : fields.length ≤ 253) (hrow : commandFormat op.toNat = some format) (hi : format fields = some i) :
    decodePacket (op :: byteOf (fields.length + 2) :: fields) = .ok i := by
  simp [decodePacket_packet op fields hl, hrow, hi]

/-- The length byte of CMD_SET_PARAMS counts the opcode, itself, the index and the data (R93 (c)). -/
theorem decodePacket_setParams (idx : Byte) (data : List Byte) (hl : data.length ≤ 252) :
    decodePacket (0x04 :: byteOf (3 + data.length) :: idx :: data) = .ok (.setParams idx data) := by
  rw [show 3 + data.length = (idx :: data).length + 2 by simp only [List.length_cons]; omega]
  exact decodePacket_of_format 0x04 (idx :: data) (formatFV .setParams) _
    (by simp only [List.length_cons]; omega) rfl rfl

/-- The three answers of R150; the payloads are the two reads of the `INFO` space (R95, R96). -/
theorem exec_getInfo (idx : Byte) (s : State) : exec (.getInfo idx) s = .next
    (if idx = 0 then s.answered s.dev [] .okay s.infoFirmware
     else if idx = 1 then s.answered s.dev [] .okay s.infoBwStats
     else s.refused .badCommand) := by
  simp only [exec, execGetInfo, State.finish_eq, State.raiseAck_eq]

/-- The two checks of R152 raise the same code, so the refusal is the complement of the acceptance. -/
theorem exec_getParams (idx nr : Byte) (s : State) : exec (.getParams idx nr) s = .next
    (if idx = 0 ∧ nr = 10 then s.answered s.dev [] .okay s.dev.delay else s.refused .badCommand) := by
  simp only [exec, execGetParams, ne_eq, ite_not, ite_and, State.paramsRead, State.finish_eq, State.raiseAck_eq]

/-- Writing the delay block before the answer is part of the answer. -/
theorem State.paramsWrite_finish (data : List Byte) (s : State) :
    (s.paramsWrite data).finish .okay [] = s.answered { s.dev with delay := data } [] .okay [] := by
  rw [State.finish_eq]
  exact State.answered_of s _ _ [] .okay [] (by simp [State.paramsWrite])

/-- As for CMD_GET_PARAMS, the two checks of R154 raise the same code. -/
theorem exec_setParams (idx : Byte) (data : List Byte) (s : State) : exec (.setParams idx data) s = .next
    (if idx = 0 ∧ data.length = 10 then s.answered { s.dev with delay := data } [] .okay []
     else s.refused .badCommand) := by
  simp only [exec, execSetParams, ne_eq, ite_not, ite_and, State.paramsWrite_finish, State.raiseAck_eq]

/-- Settles O30: the three index cases of `exec_getInfo`, whose payloads are the two `INFO` reads of R150. -/
theorem getInfoResult : Obligations.GetInfoResult := by
  intro idx s
  refine ⟨decodePacket_of_format 0x00 [idx] (formatF1 .getInfo) _ (by simp) rfl rfl, fun h0 => ?firmware,
    fun h1 => ?bandwidth, fun h0 h1 => ?refusal⟩
  case firmware => rw [exec_getInfo, if_pos h0]; rfl
  case bandwidth => rw [exec_getInfo, if_neg (by simp [h1]), if_pos h1]; rfl
  case refusal => rw [exec_getInfo, if_neg h0, if_neg h1]

/-- Settles O31: each command accepts index 0 with ten bytes, and its refusal is the complement. -/
theorem parameterCommandsResult : Obligations.ParameterCommandsResult := by
  intro idx nr data s hl
  refine ⟨?decodeGet, decodePacket_setParams idx data hl, fun h => ?getOkay, fun h => ?getRefused,
    fun h => ?setOkay, fun h => ?setRefused⟩
  case decodeGet => exact decodePacket_of_format 0x05 [idx, nr] (formatF2 .getParams) _ (by simp) rfl rfl
  case getOkay => rw [exec_getParams, if_pos h]
  case getRefused => rw [exec_getParams, if_neg (by tauto)]
  case setOkay => rw [exec_setParams, if_pos h]
  case setRefused => rw [exec_setParams, if_neg (by tauto)]

end Sys2Proof.Machine
end

section
/-!
The drive control commands (R165, R167, R169, R172, R174): CMD_SEEK, CMD_SIDE, CMD_MOTOR, CMD_SELECT and
CMD_DESELECT. One lemma per command says its whole next state, in the order of its checks; an accepted command is an
answer to which its register write and its actuation calls belong (`State.finish_of`).
-/

namespace Sys2Proof.Machine

/-- An accepted command that writes device registers and makes calls before its end answers with both. -/
theorem State.finish_of (s t : State) (dev : Device) (calls : List ActCall) (c : AckCode) (payload : List Byte)
    (h : t = { s with dev := dev, env := { s.env with act := s.env.act ++ calls } }) :
    t.finish c payload = s.answered dev calls c payload :=
  (t.finish_eq c payload).trans (State.answered_of s t dev calls c payload h)

/-! ### CMD_SEEK (R165) -/

theorem exec_seek_unselected (cyl : Byte) (s : State) (hsel : s.dev.sel = none) :
    exec (.seek cyl) s = .next (s.refused .noUnit) := by
  simp only [exec, execSeek, hsel, State.raiseAck_eq]

/-- On `SEEK_NO_TRK0` the stored cylinder is kept. -/
theorem exec_seek_noTrk0 (cyl u : Byte) (s : State) (hsel : s.dev.sel = some u)
    (hans : (s.actSeek u (s.cylRead u) cyl).1 = .noTrk0) :
    exec (.seek cyl) s = .next ((s.actSeek u (s.cylRead u) cyl).2.refused .noTrk0) := by
  simp only [exec, execSeek, hsel, hans, State.raiseAck_eq]

/-- The call of a seek writes no device register, so the write of `cyl[u]` after it starts from those before it. -/
theorem State.actSeek_dev (u f c : Byte) (s : State) : (s.actSeek u f c).2.dev = s.dev := by
  obtain ⟨_, _, hcall⟩ := s.actSeek_spec u f c
  rw [hcall]

theorem State.cylWrite_finish (u c : Byte) (s : State) :
    (s.cylWrite u c).finish .okay [] = s.answered { s.dev with cyl := s.dev.cyl.set u.toNat c } [] .okay [] :=
  State.finish_of s _ _ _ _ _ (by simp [State.cylWrite])

theorem exec_seek_ok (cyl u : Byte) (s : State) (hsel : s.dev.sel = some u)
    (hans : (s.actSeek u (s.cylRead u) cyl).1 = .ok) :
    exec (.seek cyl) s = .next ((s.actSeek u (s.cylRead u) cyl).2.answered
      { s.dev with cyl := s.dev.cyl.set u.toNat cyl } [] .okay []) := by
  simp only [exec, execSeek, hsel, hans, State.cylWrite_finish, State.actSeek_dev]

/-- Settles O35: no unit selected, and the two answers of the collaborator. -/
theorem seekResult : Obligations.SeekResult := by
  intro cyl s
  refine ⟨decodePacket_of_format 0x02 [cyl] (formatF1 .seek) _ (by simp) rfl rfl, fun hsel => ?unselected,
    fun u hsel => ⟨?call, fun hans => ?seekOk, fun hans => ?seekNoTrk0⟩⟩
  case unselected => exact exec_seek_unselected cyl s hsel
  case call => exact s.actSeek_spec u _ cyl
  case seekOk => exact exec_seek_ok cyl u s hsel hans
  case seekNoTrk0 => exact exec_seek_noTrk0 cyl u s hsel hans

/-! ### CMD_SIDE (R167) -/

/-- A `side` field of 0 or 1 names the side it is (R102). -/
theorem sideOf_of_le_one (b : Byte) (h : b.toNat ≤ 1) : sideOf b = some (decide (b = 1)) := by
  have hb : b = 0 ∨ b = 1 := by bv_omega
  rcases hb with rfl | rfl <;> rfl

theorem sideOf_of_gt_one (b : Byte) (h : b.toNat > 1) : sideOf b = none := by
  have h0 : b ≠ 0 := by bv_omega
  have h1 : b ≠ 1 := by bv_omega
  rw [sideOf, if_neg h0, if_neg h1]

theorem exec_side_unselected (sd : Byte) (s : State) (hsel : s.dev.sel = none) :
    exec (.side sd) s = .next (s.refused .noUnit) := by
  simp only [exec, execSide, hsel, State.raiseAck_eq]

theorem exec_side_refused (sd u : Byte) (s : State) (hsel : s.dev.sel = some u) (hside : sideOf sd = none) :
    exec (.side sd) s = .next (s.refused .badCommand) := by
  simp only [exec, execSide, hsel, hside, State.raiseAck_eq]

theorem State.sideWrite_finish (u : Byte) (v : Bool) (s : State) :
    ((s.sideWrite u v).call (.side v)).finish .okay [] =
      s.answered { s.dev with side := s.dev.side.set u.toNat v } [.side v] .okay [] :=
  State.finish_of s _ _ _ _ _ rfl

theorem exec_side_okay (sd u : Byte) (v : Bool) (s : State) (hsel : s.dev.sel = some u) (hside : sideOf sd = some v) :
    exec (.side sd) s =
      .next (s.answered { s.dev with side := s.dev.side.set u.toNat v } [.side v] .okay []) := by
  simp only [exec, execSide, hsel, hside, State.sideWrite_finish]

/-- Settles O36: the selection is checked before the side, and the side is stored exactly when it is 0 or 1. -/
theorem sideResult : Obligations.SideResult := by
  intro sd s
  refine ⟨decodePacket_of_format 0x03 [sd] (formatF1 .side) _ (by simp) rfl rfl, fun hsel => ?unselected,
    fun u hsel => ⟨fun hle => ?okay, fun hgt => ?refused⟩⟩
  case unselected => exact exec_side_unselected sd s hsel
  case okay => exact exec_side_okay sd u _ s hsel (sideOf_of_le_one sd hle)
  case refused => exact exec_side_refused sd u s hsel (sideOf_of_gt_one sd hgt)

/-! ### CMD_MOTOR (R169) -/

theorem State.motorWrite_finish (u : Byte) (on : Bool) (s : State) :
    ((s.motorWrite u on).call (.motor u on)).finish .okay [] =
      s.answered { s.dev with motor := s.dev.motor.set u.toNat on } [.motor u on] .okay [] :=
  State.finish_of s _ _ _ _ _ rfl

/-- The bound on `drive` is the only check. -/
theorem exec_motor (drive on : Byte) (s : State) : exec (.motor drive on) s = .next
    (if drive.toNat > s.cfg.maxUnit.toNat then s.refused .badUnit
     else s.answered { s.dev with motor := s.dev.motor.set drive.toNat (boolOf on) } [.motor drive (boolOf on)]
      .okay []) := by
  simp only [exec, execMotor, State.motorWrite_finish, State.raiseAck_eq]

/-- Settles O37: the two sides of `exec_motor`'s bound. -/
theorem motorResult : Obligations.MotorResult := by
  intro drive on s
  refine ⟨decodePacket_of_format 0x06 [drive, on] (formatF2 .motor) _ (by simp) rfl rfl, fun hle => ?okay,
    fun hgt => ?refused⟩
  case okay => rw [exec_motor, if_neg (Nat.not_lt.mpr hle)]; rfl
  case refused => rw [exec_motor, if_pos hgt]

/-! ### CMD_SELECT and CMD_DESELECT (R172, R174) -/

/-- The calls that releasing the selected unit makes: one if a unit is selected. -/
def releaseCalls : Option Byte → List ActCall
  | none => []
  | some _ => [.deselect]

@[simp] theorem releaseCalls_none : releaseCalls none = [] := rfl
@[simp] theorem releaseCalls_some (u : Byte) : releaseCalls (some u) = [.deselect] := rfl

theorem State.releaseUnit_calls (s : State) :
    s.releaseUnit = { s with env := { s.env with act := s.env.act ++ releaseCalls s.dev.sel } } := by
  rw [State.releaseUnit_eq]; rfl

/-- The three checks of R172 in their order; a unit other than `drive` is released before `drive` is selected. -/
theorem exec_select (drive : Byte) (s : State) : exec (.select drive) s = .next
    (if s.dev.busType = .none then s.refused .noBus
     else if drive.toNat > s.cfg.maxUnit.toNat then s.refused .badUnit
     else if s.dev.sel = some drive then s.answered s.dev [] .okay []
     else s.answered { s.dev with sel := some drive } (releaseCalls s.dev.sel ++ [.select drive]) .okay []) := by
  have haccept : ((s.releaseUnit.call (.select drive)).setSel (some drive)).finish .okay [] =
      s.answered { s.dev with sel := some drive } (releaseCalls s.dev.sel ++ [.select drive]) .okay [] :=
    State.finish_of s _ _ _ _ _ (by simp [State.releaseUnit_calls, State.call, State.setSel])
  simp only [exec, execSelect, haccept, State.finish_eq, State.raiseAck_eq]

theorem exec_deselect (s : State) : exec .deselect s =
    .next (s.answered { s.dev with sel := none } (releaseCalls s.dev.sel) .okay []) := by
  refine congrArg Host.Outcome.next (State.finish_of s (s.releaseUnit.setSel none) _ _ _ _ ?_)
  rw [State.releaseUnit_calls]; rfl

/-- Clearing a selection that is empty already changes no register. -/
theorem Device.clearSel_of_none (d : Device) (h : d.sel = none) : { d with sel := none } = d := by
  rw [← h]

/-- Settles O38: the branches of `exec_select` in their order, and the two of `exec_deselect`. -/
theorem selectionCommandsResult : Obligations.SelectionCommandsResult := by
  intro drive s
  refine ⟨decodePacket_of_format 0x0C [drive] (formatF1 .select) _ (by simp) rfl rfl,
    decodePacket_of_format 0x0D [] (formatF0 .deselect) _ (by simp) rfl rfl, fun hbus => ?noBus,
    fun hbus hgt => ?badUnit, fun hbus hle => ?accepted, fun hsel => ?deselectNone, fun u hsel => ?deselectUnit⟩
  case noBus => rw [exec_select, if_pos hbus]
  case badUnit => rw [exec_select, if_neg hbus, if_pos hgt]
  case accepted =>
    rw [exec_select, if_neg hbus, if_neg (Nat.not_lt.mpr hle)]
    refine ⟨fun hsel => ?sameUnit, fun hsel => ?noUnit, fun u hsel hu => ?otherUnit⟩
    case sameUnit => rw [if_pos hsel]
    case noUnit => simp [hsel]
    case otherUnit => simp [hsel, hu]
  case deselectNone => rw [exec_deselect, hsel, releaseCalls_none, Device.clearSel_of_none s.dev hsel]
  case deselectUnit => rw [exec_deselect, hsel, releaseCalls_some]

end Sys2Proof.Machine
end

section
/-!
CMD_SWITCH_FW_MODE (R187): a mode byte that names a firmware mode raises that mode's signal and writes no register;
every other mode byte is refused.
-/

namespace Sys2Proof.Machine

/-- Only 0 and 1 name a firmware mode (R187). -/
theorem fwModeOf_of_gt_one (b : Byte) (h : b.toNat > 1) : fwModeOf b = none := by
  have h0 : b ≠ 0 := by bv_omega
  have h1 : b ≠ 1 := by bv_omega
  rw [fwModeOf, if_neg h0, if_neg h1]

/-- The signal is the command's only effect before its answer: the device registers stay `s.dev`. -/
theorem State.fwModeCall_finish (m : FwMode) (s : State) :
    (s.call (.fwMode m)).finish .okay [] = s.answered s.dev [.fwMode m] .okay [] :=
  State.finish_of s _ _ _ _ _ rfl

theorem exec_switchFwMode_okay (mode : Byte) (m : FwMode) (s : State) (hmode : fwModeOf mode = some m) :
    exec (.switchFwMode mode) s = .next (s.answered s.dev [.fwMode m] .okay []) := by
  simp only [exec, execSwitchFwMode, hmode, State.fwModeCall_finish]

theorem exec_switchFwMode_refused (mode : Byte) (s : State) (hmode : fwModeOf mode = none) :
    exec (.switchFwMode mode) s = .next (s.refused .badCommand) := by
  simp only [exec, execSwitchFwMode, hmode, State.raiseAck_eq]

/-- Settles O42: the two mode bytes that name a firmware mode, and the refusal of every other. -/
theorem switchFwModeResult : Obligations.SwitchFwModeResult := by
  intro mode s
  refine ⟨decodePacket_of_format 0x0B [mode] (formatF1 .switchFwMode) _ (by simp) rfl rfl, fun h0 => ?bootloader,
    fun h1 => ?normal, fun hgt => ?refused⟩
  case bootloader => exact exec_switchFwMode_okay mode .bootloader s (by rw [h0]; rfl)
  case normal => exact exec_switchFwMode_okay mode .normal s (by rw [h1]; rfl)
  case refused => exact exec_switchFwMode_refused mode s (fwModeOf_of_gt_one mode hgt)

end Sys2Proof.Machine
end

section
/-!
The flux commands (R226, R236, R250): CMD_READ_FLUX, CMD_WRITE_FLUX and CMD_ERASE_FLUX. One lemma per command says its
whole next state; the two that open a stream write their registers and make their call before the leading ack
(`State.enterStream_of`).
-/

namespace Sys2Proof.Machine

/-- A streaming command that writes device and stream registers and makes calls before its leading ack starts with
them. -/
theorem State.enterStream_of (s t : State) (dev : Device) (strm : Stream) (calls : List ActCall) (m : Mode)
    (h : t = { s with dev := dev, strm := strm, env := { s.env with act := s.env.act ++ calls } }) :
    t.enterStream m = s.started dev strm calls m := by
  rw [State.enterStream_eq, h]
  simp [State.started]

/-! ### CMD_READ_FLUX (R226) -/

/-- The bounds on the number of index pulses are the only check. -/
theorem exec_readFlux (field : Option Byte) (s : State) : exec (.readFlux field) s = .next
    (if nrIdxOf field = 0 ∨ (nrIdxOf field).toNat > s.cfg.maxIndex.toNat then s.refused .badCommand
     else s.started { s.dev with capValid := false, idxTime := List.replicate s.cfg.maxIndex.toNat 0 }
      { s.strm with rdTarget := nrIdxOf field, rdSeen := 0, rdCum := 0, xferBytes := 0 } [.captureStart]
      .rdStream) := by
  simp only [exec, execReadFlux, State.raiseAck_eq]
  exact congrArg (fun t => Host.Outcome.next (ite _ _ t)) (State.enterStream_of s _ _ _ _ _ rfl)

/-- Settles O45: the two sides of `exec_readFlux`'s check, for a field that is given or defaults to 2. -/
theorem readFluxResult : Obligations.ReadFluxResult := by
  intro field n s hfield
  have hn : nrIdxOf field = n := by
    rcases hfield with rfl | ⟨rfl, rfl⟩ <;> rfl
  refine ⟨decodePacket_of_format 0x07 [n] (formatFO .readFlux) _ (by simp) rfl rfl,
    decodePacket_of_format 0x07 [] (formatFO .readFlux) _ (by simp) rfl rfl, fun hbad => ?refused,
    fun hpos hle => ?started⟩
  case refused => rw [exec_readFlux, hn, if_pos hbad]
  case started => rw [exec_readFlux, hn, if_neg (not_or.mpr ⟨hpos, Nat.not_lt.mpr hle⟩)]

/-! ### CMD_WRITE_FLUX and CMD_ERASE_FLUX (R236, R250) -/

/-- Asking for write protection writes no device register. -/
theorem State.actWrprot_dev (s : State) : s.actWrprot.2.dev = s.dev := by
  obtain ⟨_, _, hcall⟩ := s.actWrprot_spec
  rw [hcall]

/-- Asking for write protection writes no stream register. -/
theorem State.actWrprot_strm (s : State) : s.actWrprot.2.strm = s.strm := by
  obtain ⟨_, _, hcall⟩ := s.actWrprot_spec
  rw [hcall]

/-- The collaborator's answer decides; the stream's registers are written over those before the call. -/
theorem exec_writeFlux (field : Option Byte) (s : State) : exec (.writeFlux field) s = .next
    (if s.actWrprot.1 = true then s.actWrprot.2.refused .wrprot
     else s.actWrprot.2.started s.dev
      { s.strm with wrTai := taiOf field, wrResult := .okay, dec := .tok, xferBytes := 0 }
      [.playStart (taiOf field)] .wrStream) := by
  simp only [exec, execWriteFlux, State.raiseAck_eq]
  rw [← s.actWrprot_dev, ← s.actWrprot_strm]
  exact congrArg (fun t => Host.Outcome.next (ite _ _ t)) (State.enterStream_of s.actWrprot.2 _ _ _ _ _ rfl)

/-- The tick count reaches the collaborator unchanged, and no register is written. -/
theorem exec_eraseFlux (ticks : U32) (s : State) : exec (.eraseFlux ticks) s = .next
    (if s.actWrprot.1 = true then s.actWrprot.2.refused .wrprot
     else s.actWrprot.2.answered s.dev [.erase ticks] .okay []) := by
  simp only [exec, execEraseFlux, State.raiseAck_eq]
  rw [← s.actWrprot_dev]
  exact congrArg (fun t => Host.Outcome.next (ite _ _ t)) (State.finish_of s.actWrprot.2 _ _ _ _ _ rfl)

/-- Settles O46: the two answers of `act_wrprot`, for a field that is given or defaults to false. -/
theorem writeFluxResult : Obligations.WriteFluxResult := by
  intro field tai s hfield
  have htai : taiOf field = tai := by
    rcases hfield with ⟨b, rfl, rfl⟩ | ⟨rfl, rfl⟩ <;> rfl
  refine ⟨fun b => decodePacket_of_format 0x08 [b] (formatFO .writeFlux) _ (by simp) rfl rfl,
    decodePacket_of_format 0x08 [] (formatFO .writeFlux) _ (by simp) rfl rfl, s.actWrprot_spec, fun hprot => ?refused,
    fun hfree => ?started⟩
  case refused => rw [exec_writeFlux, if_pos hprot]
  case started => rw [exec_writeFlux, htai, if_neg (by simp [hfree])]

/-- Settles O47: the packet's four bytes are the little-endian tick count, and the two answers of `act_wrprot`. -/
theorem eraseFluxResult : Obligations.EraseFluxResult := by
  intro b0 b1 b2 b3 ticks s hticks
  have hrd : rd32 b0 b1 b2 b3 = ticks := BitVec.eq_of_toNat_eq ((rd32_toNat b0 b1 b2 b3).trans hticks.symm)
  refine ⟨?decode, s.actWrprot_spec, fun hprot => ?refused, fun hfree => ?accepted⟩
  case decode =>
    rw [← hrd]
    exact decodePacket_of_format 0x11 [b0, b1, b2, b3] (formatF4 .eraseFlux) _ (by simp) rfl rfl
  case refused => rw [exec_eraseFlux, if_pos hprot]
  case accepted => rw [exec_eraseFlux, if_neg (by simp [hfree])]

end Sys2Proof.Machine
end

section
/-!
The ends of a write stream (R239, R241, R245): the terminator, a malformed token, and what `wr_finish()` keeps. The
fields that the end of a write stream leaves alone have a `simp` lemma each; its device registers are
`State.wrFinish_dev`, into which a call made just before the end does not enter (`State.wrFinish_dev_call`).
-/

namespace Sys2Proof.Machine

/-! ### What `wr_finish()` keeps -/

section
variable (s : State)

@[simp] theorem State.wrFinish_cfg : s.wrFinish.cfg = s.cfg := by
  obtain ⟨_, _, _, _, _, h, _⟩ := s.wrFinish_spec
  rw [h]

@[simp] theorem State.wrFinish_frm : s.wrFinish.frm = { s.frm with mode := .idle } := by
  obtain ⟨_, _, _, _, _, h, _⟩ := s.wrFinish_spec
  rw [h]

/-- Of the environment, only the answers and draws of the sample are used. -/
theorem State.wrFinish_env : ∃ (a : Answers) (n : Nat), s.wrFinish.env = { s.env with answers := a, draws := n } := by
  obtain ⟨_, _, a, n, _, h, _⟩ := s.wrFinish_spec
  exact ⟨a, n, by rw [h]⟩

@[simp] theorem State.wrFinish_rxq : s.wrFinish.env.rxq = s.env.rxq := by
  obtain ⟨_, _, h⟩ := s.wrFinish_env
  rw [h]

@[simp] theorem State.wrFinish_tx : s.wrFinish.env.tx = s.env.tx := by
  obtain ⟨_, _, h⟩ := s.wrFinish_env
  rw [h]

@[simp] theorem State.wrFinish_txPending : s.wrFinish.env.txPending = s.env.txPending := by
  obtain ⟨_, _, h⟩ := s.wrFinish_env
  rw [h]

@[simp] theorem State.wrFinish_act : s.wrFinish.env.act = s.env.act := by
  obtain ⟨_, _, h⟩ := s.wrFinish_env
  rw [h]

@[simp] theorem State.wrFinish_sched : s.wrFinish.env.sched = s.env.sched := by
  obtain ⟨_, _, h⟩ := s.wrFinish_env
  rw [h]

/-- An `OKAY` end samples the bytes of the stream and the microseconds drawn. -/
theorem State.wrFinish_dev_okay (h : s.strm.wrResult = .okay) :
    s.wrFinish.dev = { (s.bwSample s.strm.xferBytes s.drawUsecs.1).dev with fluxStatus := .okay } := by
  rw [State.wrFinish_dev, if_pos h]

/-- Any other end takes no sample. -/
theorem State.wrFinish_dev_error (h : s.strm.wrResult ≠ .okay) :
    s.wrFinish.dev = { s.dev with fluxStatus := s.strm.wrResult } := by
  rw [State.wrFinish_dev, if_neg h]

/-- The sample draws from the answers, which a call does not touch. -/
@[simp] theorem State.wrFinish_dev_call (c : ActCall) : (s.call c).wrFinish.dev = s.wrFinish.dev := by
  have hdraw : (s.call c).drawUsecs.1 = s.drawUsecs.1 := State.drawUsecs_congr s _ rfl rfl
  rw [State.wrFinish_dev, State.wrFinish_dev, State.call_strm, State.call_dev, hdraw,
    State.bwSample_dev_congr _ _ (s.call c) s rfl]

end

/-! ### The terminator (R239) -/

theorem exec_fluxEos_tail (s : State) (h : s.strm.wrTai = true) :
    exec .fluxEos s = .next ((s.call .playEnd).setMode .wrTail) :=
  congrArg Host.Outcome.next (if_pos h)

theorem exec_fluxEos_finish (s : State) (h : s.strm.wrTai = false) :
    exec .fluxEos s = .next (s.call .playEnd).wrFinish :=
  congrArg Host.Outcome.next (if_neg (by simp [h]))

/-- Settles O50: the wait of terminate-at-index, and otherwise the end after the call. -/
theorem terminatorEndsWriteStream : Obligations.TerminatorEndsWriteStream := by
  intro s
  refine ⟨fun htai => exec_fluxEos_tail s htai, fun htai => ⟨_, exec_fluxEos_finish s htai, by simp, by simp,
    by simp, by simp, by simp, by simp, by simp, fun hokay => ?okay, fun herror => ?error⟩⟩
  case okay => rw [State.wrFinish_dev_call, State.wrFinish_dev_okay s hokay]
  case error => rw [State.wrFinish_dev_call, State.wrFinish_dev_error s herror]

/-! ### Malformed tokens (R241) -/

/-- Whatever makes a token malformed, its meaning is `BAD` of the byte it reports. -/
theorem exec_of_malformed (i : Instr) (b : Byte) (s : State) (h : malformedByte i = some b) :
    exec i s = .next (s.fluxBad b) := by
  cases i with
  | fluxMed b0 b1 =>
    obtain ⟨rfl, rfl⟩ : b1 = 0 ∧ 0 = b := by simpa [malformedByte] using h
    rfl
  | fluxIndex arg =>
    obtain ⟨hnone, rfl⟩ : fluxArg arg = none ∧ fluxArgByte arg = b := by simpa [malformedByte] using h
    simp only [exec, execFluxIndex, hnone]
  | fluxLong arg =>
    obtain ⟨hval, rfl⟩ : (fluxArg arg ≠ none → fluxArg arg = some 0) ∧ fluxArgByte arg = b := by
      simpa [malformedByte] using h
    rcases harg : fluxArg arg with _ | t
    · simp only [exec, execFluxLong, harg]
    · have ht : t = 0 := by simpa [harg] using hval
      simp only [exec, execFluxLong, harg, ht, if_true]
  | fluxReserved op =>
    obtain rfl : op = b := Option.some.inj h
    rfl
  | _ => cases h

/-- A malformed token that is not cut short by the terminator leaves the rest of the stream to be drained. -/
theorem State.fluxBad_of_ne (b : Byte) (s : State) (h : b ≠ 0) :
    s.fluxBad b = ((s.call .playStop).setWrResult .badCommand).setMode .wrDrain := if_neg h

theorem State.fluxBad_zero (s : State) :
    s.fluxBad 0 = ((s.call .playStop).setWrResult .badCommand).wrFinish := rfl

/-- An end with an error that was set just before it takes no sample, so it writes the status alone. -/
theorem State.wrFinish_dev_setWrResult (c : AckCode) (s : State) (h : c ≠ .okay) :
    (s.setWrResult c).wrFinish.dev = { s.dev with fluxStatus := c } :=
  State.wrFinish_dev_error (s.setWrResult c) h

/-- Settles O51: a malformed token is `BAD` of its byte, which drains the stream unless the byte is the terminator. -/
theorem malformedTokensStopPlayback : Obligations.MalformedTokensStopPlayback := by
  intro i b s hbad
  rw [exec_of_malformed i b s hbad]
  refine ⟨fun hb => congrArg Host.Outcome.next (s.fluxBad_of_ne b hb), ?terminated⟩
  case terminated =>
    rintro rfl
    rw [State.fluxBad_zero]
    exact ⟨_, rfl, by simp [State.wrFinish_dev_setWrResult]⟩

end Sys2Proof.Machine
end

section
/-!
The events of a write stream and of its tail (R242, R243, R246): one lemma per accepted event says the state it leaves.
-/

namespace Sys2Proof.Machine

theorem State.onEvent_underrun (s : State) (hm : s.frm.mode = .wrStream) (hrx : s.env.rxq = []) :
    s.onEvent .underrun = ((s.call .playStop).setWrResult .fluxUnderflow).setMode .wrDrain := by
  simp only [State.onEvent, hm]
  exact if_pos hrx

theorem State.onEvent_writeIndex (d : Nat) (s : State) (hm : s.frm.mode = .wrStream) :
    s.onEvent (.index d) = if s.strm.wrTai = true then (s.call .playStop).setMode .wrDrain else s := by
  simp only [State.onEvent, hm]
  rfl

theorem State.onEvent_tailIndex (d : Nat) (s : State) (hm : s.frm.mode = .wrTail) :
    s.onEvent (.index d) = (s.call .playStop).wrFinish := by
  simp only [State.onEvent, hm]
  rfl

theorem State.onEvent_tailNoIndex (s : State) (hm : s.frm.mode = .wrTail) :
    s.onEvent .noIndex = ((s.call .playStop).setWrResult .noIndex).wrFinish := by
  simp only [State.onEvent, hm]
  rfl

/-- Settles O56: in `WR_STREAM` playback stops and the stream drains; in `WR_TAIL` the stream ends after the call. -/
theorem writeStreamEvents : Obligations.WriteStreamEvents := by
  intro d s
  refine ⟨fun hm hrx => s.onEvent_underrun hm hrx, fun hm htai => ?indexDrains, fun hm htai => ?indexIgnored,
    fun hm hokay => ?tailIndex, fun hm => ?tailNoIndex⟩
  case indexDrains => rw [s.onEvent_writeIndex d hm, if_pos htai]; rfl
  case indexIgnored => rw [s.onEvent_writeIndex d hm, if_neg (by simp [htai])]
  case tailIndex => exact ⟨_, s.onEvent_tailIndex d hm, by simp [State.wrFinish_dev_okay s hokay]⟩
  case tailNoIndex => exact ⟨_, s.onEvent_tailNoIndex hm, by simp [State.wrFinish_dev_setWrResult]⟩

end Sys2Proof.Machine
end

section
/-!
The control channel (R275, R277, R279, R280): `ctrl_write` sets the latch or does nothing, and the service that the
latch asks for ends whatever mode it finds. `State.clearComms_eq` gives the service's whole result.
-/

namespace Sys2Proof.Machine

/-! ### `ctrl_write` (R275) -/

theorem decode_ctrl_clearComms : decode (.ctrl 10000) = .ok .ctrlClearComms :=
  congrArg Decoded.ok (if_pos rfl)

theorem decode_ctrl_normal (v : U32) (h : v ≠ 10000) : decode (.ctrl v) = .ok (.ctrlNormal v) :=
  congrArg Decoded.ok (if_neg h)

theorem exec_ctrlClearComms (s : State) : exec .ctrlClearComms s = .next (s.setClearPending true) := rfl

theorem exec_ctrlNormal (v : U32) (s : State) : exec (.ctrlNormal v) s = .next s := rfl

/-- Settles O44: 10000, whose effect is one write of the latch, and every other value. -/
theorem controlWriteResult : Obligations.ControlWriteResult := by
  intro v s
  refine ⟨fun hclear => ⟨?decodeClear, exec_ctrlClearComms s⟩,
    fun hother => ⟨decode_ctrl_normal v hother, exec_ctrlNormal v s⟩⟩
  case decodeClear => rw [hclear, decode_ctrl_clearComms]

/-! ### The service (R277, R279, R280) -/

/-- The calls that stop what a mode has running (R248, R277). -/
def stopCalls : Mode → List ActCall
  | .rdStream => [.captureStop]
  | .wrStream | .wrTail => [.playStop]
  | .idle | .wrDrain | .src | .sink => []

theorem State.stopStream_eq_stopCalls (s : State) :
    s.stopStream = { s with env := { s.env with act := s.env.act ++ stopCalls s.frm.mode } } := by
  rw [State.stopStream_eq]
  cases s.frm.mode <;> rfl

/-- The mode decides the calls alone: the registers and the queues end the same way whatever was running. -/
theorem State.clearComms_eq (s : State) : s.clearComms =
    { cfg := s.cfg
      dev := { s.dev.withDefaults s.cfg with clearPending := false }
      frm := { s.frm with mode := .idle, rxCnt := 0 }
      strm := Config.deadStream s.env.draws
      env := { s.env with
        rxq := [], tx := s.env.tx ++ [.reset], txPending := [],
        act := s.env.act ++ (stopCalls s.frm.mode ++ [.resetDefaults]), draws := s.env.draws + 1 } } := by
  rw [State.clearComms, State.stopStream_eq_stopCalls, State.restoreDefaults_eq, ← List.append_assoc]
  rfl

/-- Settles O14: `State.clearComms_eq` read group by group, its calls for each mode. -/
theorem clearCommsServiceEffects : Obligations.ClearCommsServiceEffects := by
  intro s
  rw [State.clearComms_eq]
  refine ⟨rfl, rfl, rfl, rfl, rfl, rfl, rfl, fun hread => ?capture, fun hwrite => ?playback, fun hnone => ?nothing⟩
  case capture => rw [hread]; rfl
  case playback => rcases hwrite with hmode | hmode <;> rw [hmode] <;> rfl
  case nothing => rcases hnone with hmode | hmode | hmode | hmode <;> rw [hmode] <;> rfl

end Sys2Proof.Machine
end

section
/-!
N28 and its inverse (R197): an N28 integer is a list of groups of 7 bits, and `un28` reads the groups back.
-/

namespace Sys2Proof.Machine

/-- The `k` lowest groups of 7 bits of `n`, each as an odd byte, least significant group first. -/
def groups : Nat → Nat → List Byte
  | 0, _ => []
  | k + 1, n => byteOf (1 + 2 * (n % 128)) :: groups k (n / 128)

/-- The bytes of N28 are the lowest groups. -/
theorem n28_take (n k : Nat) (hk : k ≤ 4) : (n28 n).take k = groups k n := by
  interval_cases k <;> simp [n28, groups, Nat.div_div_eq_div_mul]

theorem n28_eq_groups (n : Nat) : n28 n = groups 4 n := n28_take n 4 le_rfl

theorem un28_groups (k n : Nat) (h : n < 128 ^ k) : un28 (groups k n) = n := by
  induction k generalizing n with
  | zero => simp at h; simp [groups, un28, h]
  | succ k ih =>
    have hdiv : n / 128 < 128 ^ k := by rw [Nat.pow_succ] at h; omega
    simp only [groups, un28, ih _ hdiv, byteOf_toNat (1 + 2 * (n % 128)) (by omega)]
    omega

/-- Odd bytes are the groups of the integer they are read as. -/
theorem groups_un28 (l : List Byte) (hodd : ∀ b ∈ l, b.toNat % 2 = 1) : groups l.length (un28 l) = l := by
  induction l with
  | nil => rfl
  | cons b l ih =>
    have hb : b.toNat % 2 = 1 := hodd b (by simp)
    have hlow : 1 + 2 * (un28 (b :: l) % 128) = b.toNat := by have := b.isLt; simp only [un28]; omega
    have hhigh : un28 (b :: l) / 128 = un28 l := by have := b.isLt; simp only [un28]; omega
    rw [List.length_cons, groups, hlow, hhigh, byteOf_toNat_self, ih fun c hc => hodd c (by simp [hc])]

theorem un28_n28 (n : Nat) (h : n < 2 ^ 28) : un28 (n28 n) = n := by
  rw [n28_eq_groups, un28_groups 4 n (by omega)]

/-- Settles O5: both directions are the ones of the groups, of which N28 has four. -/
theorem n28AndItsInverse : Obligations.N28AndItsInverse := by
  refine ⟨un28_n28, fun a hlen hodd => ?_⟩
  rw [n28_eq_groups, ← hlen, groups_un28 a hodd]

end Sys2Proof.Machine
end

section
/-!
The decoder of a flux stream (R205 to R211): what a byte yields and which token it completes say the same, phase by
phase; the argument of an escape token is the integer of the groups seen so far.
-/

namespace Sys2Proof.Machine

/-! ### Escape tokens and their argument (R197, R209) -/

/-- Four bytes ending in an odd one are a whole argument. -/
theorem fluxArg_of_odd (l : List Byte) (b : Byte) (hl : l.length = 3) (hb : b.toNat % 2 = 1) :
    fluxArg (l ++ [b]) = some (un28 (l ++ [b])) :=
  if_pos ⟨by simp [hl], by simpa using hb⟩

/-- An even byte cuts the argument short. -/
theorem fluxArg_of_even (l : List Byte) (b : Byte) (hb : b.toNat % 2 = 0) : fluxArg (l ++ [b]) = none :=
  if_neg (by simp [hb])

theorem fluxArgByte_append (l : List Byte) (b : Byte) : fluxArgByte (l ++ [b]) = b := by simp [fluxArgByte]

theorem fluxArg_n28 (n : Nat) (h : n < 2 ^ 28) : fluxArg (n28 n) = some n := by
  have hlast : ((n28 n).getLastD 0).toNat % 2 = 1 := n28_odd n _ (by simp [n28])
  rw [fluxArg, if_pos ⟨rfl, hlast⟩, un28_n28 n h]

/-- An even byte makes an escape token malformed, whichever its opcode. -/
theorem malformedByte_of_even (op : FluxOp) (l : List Byte) (b : Byte) (hb : b.toNat % 2 = 0) :
    malformedByte (fluxOpInstr op (l ++ [b])) = some b := by
  cases op <;> simp [fluxOpInstr, malformedByte, fluxArg_of_even l b hb, fluxArgByte_append]

theorem exec_fluxIndex (arg : List Byte) (n : Nat) (s : State) (h : fluxArg arg = some n) :
    exec (.fluxIndex arg) s = .next s := by
  simp only [exec, execFluxIndex, h]

theorem exec_fluxLong (arg : List Byte) (n : Nat) (s : State) (h : fluxArg arg = some n) (hn : n ≠ 0) :
    exec (.fluxLong arg) s = .next (s.call (.play n)) := by
  simp only [exec, execFluxLong, h, if_neg hn]

theorem exec_fluxMed (b0 b1 : Byte) (s : State) (h : b1 ≠ 0) :
    exec (.fluxMed b0 b1) s = .next (s.call (.play (medTicks b0 b1))) := by
  simp only [exec, execFluxMed, if_neg h]

theorem exec_fluxShort (b : Byte) (s : State) : exec (.fluxShort b) s = .next (s.call (.play b.toNat)) := rfl

/-- Settles O49: the interval of each rung, and the marker that plays nothing. -/
theorem wellFormedTokensPlay : Obligations.WellFormedTokensPlay := by
  refine ⟨fun b s _ _ => exec_fluxShort b s, fun b0 b1 s _ _ h1 => exec_fluxMed b0 b1 s ?_,
    fun n s h1 hn => exec_fluxLong _ n s (fluxArg_n28 n hn) (by omega),
    fun n s hn => exec_fluxIndex _ n s (fluxArg_n28 n hn)⟩
  rintro rfl
  simp at h1

/-! ### A byte and the token it completes -/

/-- The decoder's answer for a byte in a phase: what it yields, the token the byte completes and the token's meaning
agree, and the values are in range. -/
def YieldMeans (p : DecPhase) (b : Byte) (s : State) : Yield → Prop
  | .none => decToken p b = none
  | .interval t => 1 ≤ t ∧ t ≤ tickMax ∧ ∃ i, decToken p b = some i ∧ exec i s = .next (s.call (.play t))
  | .index d => d ≤ tickMax ∧ ∃ i, decToken p b = some i ∧ exec i s = .next s
  | .eos => decToken p b = some .fluxEos
  | .bad c => c = b ∧ ∃ i, decToken p b = some i ∧ malformedByte i = some b ∧ exec i s = .next (s.fluxBad b)

theorem yieldMeans_bad (p : DecPhase) (b : Byte) (s : State) (i : Instr) (htok : decToken p b = some i)
    (hbad : malformedByte i = some b) : YieldMeans p b s (.bad b) :=
  ⟨rfl, i, htok, hbad, exec_of_malformed i b s hbad⟩

/-- A phase's next phase is well formed, and its yield is its token's meaning. -/
def StepMeans (p : DecPhase) (b : Byte) (s : State) : Prop :=
  (decStep p b).1.wf = true ∧ YieldMeans p b s (decStep p b).2

theorem stepMeans_tok (b : Byte) (s : State) : StepMeans .tok b s := by
  simp only [StepMeans, decStep]
  split_ifs with h0 hshort hmed
  · exact ⟨rfl, if_pos h0⟩
  · have h1 : 1 ≤ b.toNat := by bv_omega
    have hmax : b.toNat ≤ tickMax := by simp only [tickMax]; omega
    exact ⟨rfl, h1, hmax, .fluxShort b, by simp only [decToken, if_neg h0, if_pos hshort], rfl⟩
  · exact ⟨by simp only [DecPhase.wf, decide_eq_true_eq]; omega,
      by simp only [YieldMeans, decToken, if_neg h0, if_neg hshort]⟩
  · exact ⟨rfl, by simp only [YieldMeans, decToken, if_neg h0, if_neg hshort]⟩

theorem stepMeans_med (b0 b : Byte) (s : State) (hp : (DecPhase.med b0).wf = true) : StepMeans (.med b0) b s := by
  have hb0 : 250 ≤ b0.toNat ∧ b0.toNat ≤ 254 := by simpa [DecPhase.wf] using hp
  simp only [StepMeans, decStep]
  split_ifs with h0
  · exact ⟨hp, yieldMeans_bad _ b s (.fluxMed b0 b) rfl (by simp [malformedByte, h0])⟩
  · have hrange : 1 ≤ medTicks b0 b ∧ medTicks b0 b ≤ tickMax := by
      have := b.isLt
      simp only [medTicks, tickMax]
      omega
    exact ⟨rfl, hrange.1, hrange.2, .fluxMed b0 b, rfl, exec_fluxMed b0 b s h0⟩

theorem stepMeans_esc (b : Byte) (s : State) : StepMeans .esc b s := by
  simp only [StepMeans, decStep]
  split_ifs with h1 h2
  · exact ⟨rfl, if_pos (.inl h1)⟩
  · exact ⟨rfl, if_pos (.inr h2)⟩
  · exact ⟨rfl, yieldMeans_bad _ b s (.fluxReserved b) (if_neg (not_or.mpr ⟨h1, h2⟩)) rfl⟩

/-- The argument that an odd fourth byte completes has the value the decoder has added up. -/
theorem fluxArg_fourth (acc : Nat) (b : Byte) (hacc : acc < 128 ^ 3) (hodd : b.toNat % 2 = 1) :
    fluxArg ((n28 acc).take 3 ++ [b]) = some (acc + 128 ^ 3 * (b.toNat / 2)) := by
  rw [fluxArg_of_odd _ b rfl hodd, un28_append, n28_take acc 3 (by omega), un28_groups 3 acc hacc]
  rfl

theorem stepMeans_arg (op : FluxOp) (k acc : Nat) (b : Byte) (s : State) (hp : (DecPhase.arg op k acc).wf = true) :
    StepMeans (.arg op k acc) b s := by
  obtain ⟨hk, hacc⟩ : k ≤ 3 ∧ acc < 128 ^ k := by simpa [DecPhase.wf] using hp
  have hb := b.isLt
  by_cases heven : b.toNat % 2 = 0
  · simp only [StepMeans, decStep, if_pos heven]
    exact ⟨hp, yieldMeans_bad _ b s _ (if_pos (.inl heven)) (malformedByte_of_even op _ b heven)⟩
  by_cases hmore : k < 3
  · simp only [StepMeans, decStep, if_neg heven, if_pos hmore]
    have hacc' : acc + 128 ^ k * (b.toNat / 2) < 128 ^ (k + 1) := by
      have : 128 ^ k * (b.toNat / 2) ≤ 128 ^ k * 127 := Nat.mul_le_mul_left _ (by omega)
      rw [Nat.pow_succ]
      omega
    exact ⟨by simp only [DecPhase.wf, decide_eq_true_eq]; omega,
      by simp only [YieldMeans, decToken]; exact if_neg (by omega)⟩
  · obtain rfl : k = 3 := by omega
    have harg := fluxArg_fourth acc b hacc (by omega)
    have htok : decToken (.arg op 3 acc) b = some (fluxOpInstr op ((n28 acc).take 3 ++ [b])) := by simp [decToken]
    have hmax : acc + 128 ^ 3 * (b.toNat / 2) ≤ tickMax := by
      simp only [tickMax]
      omega
    simp only [StepMeans, decStep, if_neg heven, if_neg hmore]
    cases op with
    | index => exact ⟨rfl, hmax, _, htok, exec_fluxIndex _ _ s harg⟩
    | long =>
      by_cases hzero : acc + 128 ^ 3 * (b.toNat / 2) = 0
      · rw [if_pos hzero]
        refine ⟨rfl, yieldMeans_bad _ b s _ htok ?_⟩
        rw [hzero] at harg
        simp [fluxOpInstr, malformedByte, harg, fluxArgByte_append]
      · rw [if_neg hzero]
        exact ⟨rfl, by omega, hmax, _, htok, exec_fluxLong _ _ s harg hzero⟩

/-- Every byte in every well-formed phase. -/
theorem stepMeans (p : DecPhase) (b : Byte) (s : State) (hp : p.wf = true) : StepMeans p b s := by
  cases p with
  | tok => exact stepMeans_tok b s
  | med b0 => exact stepMeans_med b0 b s hp
  | esc => exact stepMeans_esc b s
  | arg op k acc => exact stepMeans_arg op k acc b s hp

theorem decStep_wf (p : DecPhase) (b : Byte) (hp : p.wf = true) : (decStep p b).1.wf = true :=
  (stepMeans p b State.reset hp).1

/-- Settles O7: the four phases of the decoder, one lemma each. -/
theorem tokenMeaningsFollowTheDecoder : Obligations.TokenMeaningsFollowTheDecoder := by
  intro p b s hp
  obtain ⟨hwf, hmeans⟩ := stepMeans p b s hp
  refine ⟨hwf, ?_⟩
  cases hy : (decStep p b).2 <;> rw [hy] at hmeans <;> exact hmeans

end Sys2Proof.Machine
end

section
/-!
Whole tokens (R200, R202, R211): the encoding of an interval or an index marker is read by the decoder as one token
that yields it, and so a stream of encodings is read as the stream it encodes.
-/

namespace Sys2Proof.Machine

/-- From phase `p` the decoder yields nothing on the bytes but the last, and `y` on the last, which leaves `q`. -/
inductive Reads : DecPhase → List Byte → DecPhase → Yield → Prop
  | last {p q : DecPhase} {b : Byte} {y : Yield} (h : decStep p b = (q, y)) : Reads p [b] q y
  | more {p r q : DecPhase} {b : Byte} {bytes : List Byte} {y : Yield} (h : decStep p b = (r, .none))
    (hrest : Reads r bytes q y) : Reads p (b :: bytes) q y

/-- What a whole escape token with that argument yields. -/
def argYield : FluxOp → Nat → Yield
  | .index, d => .index d
  | .long, t => .interval t

/-- The odd bytes that are left of an argument complete it. -/
theorem reads_arg (op : FluxOp) (bytes : List Byte) (k acc : Nat) (hne : bytes ≠ []) (hlen : k + bytes.length = 4)
    (hodd : ∀ b ∈ bytes, b.toNat % 2 = 1) (hval : op = .long → acc + 128 ^ k * un28 bytes ≠ 0) :
    Reads (.arg op k acc) bytes .tok (argYield op (acc + 128 ^ k * un28 bytes)) := by
  induction bytes generalizing k acc with
  | nil => exact absurd rfl hne
  | cons b rest ih =>
    have hb : ¬ b.toNat % 2 = 0 := by have := hodd b (by simp); omega
    cases rest with
    | nil =>
      obtain rfl : k = 3 := by simpa using hlen
      simp only [un28, Nat.mul_zero, Nat.add_zero] at hval ⊢
      refine .last ?_
      cases op with
      | index => simp [decStep, hb, argYield]
      | long =>
        have := hval rfl
        simp only [decStep, if_neg hb, if_neg (show ¬ 3 < 3 by omega), if_neg this, argYield]
    | cons c rest =>
      have hk : k < 3 := by simp only [List.length_cons] at hlen; omega
      have hstep : decStep (.arg op k acc) b = (.arg op (k + 1) (acc + 128 ^ k * (b.toNat / 2)), .none) := by
        simp only [decStep, if_neg hb, if_pos hk]
      have hsum : acc + 128 ^ k * un28 (b :: c :: rest) =
          acc + 128 ^ k * (b.toNat / 2) + 128 ^ (k + 1) * un28 (c :: rest) := by
        rw [un28, Nat.mul_add, ← Nat.mul_assoc, ← Nat.pow_succ, Nat.add_assoc]
      rw [hsum] at hval ⊢
      exact .more hstep (ih _ _ (by simp) (by simp only [List.length_cons] at hlen ⊢; omega)
        (fun x hx => hodd x (by simp [hx])) hval)

/-- The four bytes of N28 are a whole argument. -/
theorem reads_n28 (op : FluxOp) (n : Nat) (h : n < 2 ^ 28) (hval : op = .long → n ≠ 0) :
    Reads (.arg op 0 0) (n28 n) .tok (argYield op n) := by
  have hread := reads_arg op (n28 n) 0 0 (by simp [n28]) (by simp [n28]) (n28_odd n)
  simp only [Nat.pow_zero, Nat.one_mul, Nat.zero_add, un28_n28 n h] at hread
  exact hread hval

theorem reads_encIndex (d : Nat) (hd : d ≤ tickMax) : Reads .tok (encIndex d) .tok (.index d) :=
  .more (r := .esc) rfl (.more (r := .arg .index 0 0) rfl
    (reads_n28 .index d (by simp only [tickMax] at hd; omega) nofun))

/-- The three rungs of R200. -/
theorem reads_enc (t : Nat) (h1 : 1 ≤ t) (hmax : t ≤ tickMax) : Reads .tok (enc t) .tok (.interval t) := by
  unfold enc
  split_ifs with hshort hmed
  · have hb := byteOf_toNat t (by omega)
    have hne : byteOf t ≠ 0 := fun h => by rw [h] at hb; simp at hb; omega
    exact .last (by simp only [decStep, if_neg hne, hb, if_pos hshort])
  · have hb0 := byteOf_toNat (250 + (t - 250) / 255) (by omega)
    have hb1 := byteOf_toNat (1 + (t - 250) % 255) (by omega)
    generalize byteOf (250 + (t - 250) / 255) = b0 at hb0 ⊢
    generalize byteOf (1 + (t - 250) % 255) = b1 at hb1 ⊢
    have hne0 : b0 ≠ 0 := fun h => by rw [h] at hb0; simp at hb0; omega
    have hne1 : b1 ≠ 0 := fun h => by rw [h] at hb1; simp at hb1; omega
    have hticks : medTicks b0 b1 = t := by simp only [medTicks]; omega
    refine .more (r := .med b0) ?_ (.last (by simp only [decStep, if_neg hne1, hticks]))
    simp only [decStep, if_neg hne0, if_neg (show ¬ b0.toNat ≤ 249 by omega), if_pos (show b0.toNat ≤ 254 by omega)]
  · exact .more (r := .esc) rfl (.more (r := .arg .long 0 0) rfl
      (reads_n28 .long t (by simp only [tickMax] at hmax; omega) fun _ => by omega))

theorem FluxItem.reads (x : FluxItem) (hx : x.ok = true) : Reads .tok x.bytes .tok x.yield := by
  cases x with
  | interval t =>
    obtain ⟨h1, hmax⟩ : 1 ≤ t ∧ t ≤ tickMax := by simpa [FluxItem.ok] using hx
    exact reads_enc t h1 hmax
  | index d => exact reads_encIndex d (by simpa [FluxItem.ok] using hx)

/-! ### Streams -/

/-- The decoder goes on after a token of an interval or a marker. -/
theorem decodeStream_of_reads {p q : DecPhase} {bytes : List Byte} {x : FluxItem} (h : Reads p bytes q x.yield)
    (rest : List Byte) : decodeStream p (bytes ++ rest) = x.yield :: decodeStream q rest := by
  generalize hy : x.yield = y at h
  induction h with
  | last h =>
    subst hy
    cases x <;> simp [decodeStream, h, FluxItem.yield]
  | more h _ ih => simp [decodeStream, h, ih hy]

theorem decodeStream_fluxBytes (items : List FluxItem) (hok : ∀ x ∈ items, x.ok = true) (rest : List Byte) :
    decodeStream .tok (fluxBytes items ++ rest) = items.map FluxItem.yield ++ decodeStream .tok rest := by
  induction items with
  | nil => rfl
  | cons x items ih =>
    have hx := decodeStream_of_reads (x.reads (hok x (by simp))) (fluxBytes items ++ rest)
    rw [ih fun y hy => hok y (by simp [hy])] at hx
    simpa [fluxBytes] using hx

/-- Settles O8: each element is read as itself, and the terminator after them as `END`. -/
theorem fluxStreamRoundTrip : Obligations.FluxStreamRoundTrip :=
  fun items hok => decodeStream_fluxBytes items hok [0x00]

/-! ### Canonical encodings (R199, R213) -/

theorem n28_no_zero (n : Nat) : (0 : Byte) ∉ n28 n := fun h => by simpa using n28_odd n 0 h

theorem byteOf_ne_zero (n : Nat) (h1 : 1 ≤ n) (h : n < 256) : (0 : Byte) ≠ byteOf n := fun h0 => by
  have hn := byteOf_toNat n h
  rw [← h0] at hn
  simp at hn
  omega

theorem enc_no_zero (t : Nat) (h1 : 1 ≤ t) : (0 : Byte) ∉ enc t := by
  unfold enc
  split_ifs with hshort hmed
  · simpa using byteOf_ne_zero t h1 (by omega)
  · simpa using ⟨byteOf_ne_zero (250 + (t - 250) / 255) (by omega) (by omega),
      byteOf_ne_zero (1 + (t - 250) % 255) (by omega) (by omega)⟩
  · simpa using n28_no_zero t

theorem FluxItem.no_zero (x : FluxItem) (hx : x.ok = true) : (0 : Byte) ∉ x.bytes := by
  cases x with
  | interval t =>
    obtain ⟨h1, -⟩ : 1 ≤ t ∧ t ≤ tickMax := by simpa [FluxItem.ok] using hx
    exact enc_no_zero t h1
  | index d => simpa [FluxItem.bytes, encIndex] using n28_no_zero d

/-- Settles O6: the decoder reads `t` off any bytes that begin with `enc t`, so a beginning names the same interval. -/
theorem encodingsDelimitThemselves : Obligations.EncodingsDelimitThemselves := by
  refine ⟨FluxItem.no_zero, fun t u ht htmax hu humax hbegins => ?_⟩
  obtain ⟨rest, hrest⟩ := hbegins
  have hread_t := decodeStream_of_reads (x := .interval t) (reads_enc t ht htmax) rest
  have hread_u := decodeStream_of_reads (x := .interval u) (reads_enc u hu humax) []
  rw [List.append_nil, ← hrest, hread_t] at hread_u
  exact Yield.interval.inj (List.cons.inj hread_u).1

end Sys2Proof.Machine
end

section
/-!
Decoding and encoding are inverse to each other on each wire (R90 to R100, R195 to R211, R275). Packets go format by
format and row by row of the opcode map; the argument of an escape token goes byte by byte, the decoder's phase holding
the bytes seen so far as their integer.
-/

namespace Sys2Proof.Machine

/-! ### Flux tokens -/

/-- The token that a byte completes after the argument bytes `pre`. -/
theorem decToken_arg (op : FluxOp) (pre : List Byte) (b : Byte) (hlen : pre.length ≤ 3)
    (hodd : ∀ c ∈ pre, c.toNat % 2 = 1) :
    decToken (.arg op pre.length (un28 pre)) b =
      if b.toNat % 2 = 0 ∨ pre.length = 3 then some (fluxOpInstr op (pre ++ [b])) else none := by
  have hk : 3 ≤ pre.length ↔ pre.length = 3 := by omega
  rw [decToken, n28_take _ _ (by omega), groups_un28 pre hodd]
  simp only [hk]

/-- An odd argument byte that is not the fourth joins those seen. -/
theorem decStep_arg (op : FluxOp) (pre : List Byte) (b : Byte) (hlen : pre.length < 3) (hb : b.toNat % 2 = 1) :
    (decStep (.arg op pre.length (un28 pre)) b).1 = .arg op (pre ++ [b]).length (un28 (pre ++ [b])) := by
  have hb' : ¬ b.toNat % 2 = 0 := by omega
  simp only [decStep, if_neg hb', if_pos hlen, un28_append, List.length_append, List.length_singleton]

/-- After the argument bytes `pre`, the bytes that are exactly the rest of a token are those of a legal argument. -/
theorem decodeToken_arg (op : FluxOp) (arg pre : List Byte) (i : Instr) (hlen : pre.length ≤ 3)
    (hodd : ∀ c ∈ pre, c.toNat % 2 = 1) :
    decodeToken (.arg op pre.length (un28 pre)) arg = some (i, []) ↔
      fluxArgOk pre.length arg = true ∧ i = fluxOpInstr op (pre ++ arg) := by
  induction arg generalizing pre with
  | nil => simp [decodeToken, fluxArgOk]
  | cons b rest ih =>
    rw [decodeToken, decToken_arg op pre b hlen hodd]
    by_cases hend : b.toNat % 2 = 0 ∨ pre.length = 3
    · rw [if_pos hend]
      cases rest with
      | nil =>
        have hok : fluxArgOk pre.length [b] = true := by
          simp only [fluxArgOk, Bool.or_eq_true, decide_eq_true_eq]
          omega
        simp [hok, eq_comm]
      | cons c rest =>
        have hno : fluxArgOk pre.length (b :: c :: rest) = false := by
          simp only [fluxArgOk, Bool.and_eq_false_iff, decide_eq_false_iff_not]
          omega
        simp [hno]
    · rw [if_neg hend]
      have hb : b.toNat % 2 = 1 := by omega
      simp only [decStep_arg op pre b (by omega) hb]
      rw [ih (pre ++ [b]) (by simp; omega) (by simpa [or_imp, forall_and, hb] using hodd), List.append_assoc,
        List.singleton_append]
      cases rest with
      | nil =>
        have hno : fluxArgOk pre.length [b] = false := by
          simp only [fluxArgOk, Bool.or_eq_false_iff, decide_eq_false_iff_not]
          omega
        rw [hno]
        simp [fluxArgOk]
      | cons c rest =>
        have hmore : b.toNat % 2 = 1 ∧ pre.length < 3 := by omega
        simp [fluxArgOk, hmore]

/-- A whole escape token, from its opcode. -/
theorem decodeToken_escape (op : FluxOp) (arg : List Byte) (i : Instr) :
    decodeToken (.arg op 0 0) arg = some (i, []) ↔ fluxArgOk 0 arg = true ∧ i = fluxOpInstr op arg :=
  decodeToken_arg op arg [] i (by simp) (by simp)

/-- After the escape byte, an opcode that is neither of the two is a token of its own (R208). -/
theorem decodeToken_reserved (op : Byte) (arg : List Byte) (hindex : op ≠ 1) (hlong : op ≠ 2) :
    decodeToken .esc (op :: arg) = some (.fluxReserved op, arg) := by
  rw [decodeToken, decToken, if_neg (not_or.mpr ⟨hindex, hlong⟩)]

/-- Bytes that are exactly one token are the encoding of a well-formed instruction. -/
theorem encode_of_decodeToken (bytes : List Byte) (i : Instr) (h : decodeToken .tok bytes = some (i, [])) :
    encode i = .token bytes ∧ i.wf = true := by
  rcases bytes with _ | ⟨b0, rest⟩
  · cases h
  have hb0 := b0.isLt
  simp only [decodeToken, decToken] at h
  split_ifs at h with hzero hshort
  · cases h; rw [hzero]; exact ⟨rfl, rfl⟩
  · cases h
    have h1 : 1 ≤ b0.toNat := by bv_omega
    exact ⟨rfl, by simp only [Instr.wf, decide_eq_true_eq]; omega⟩
  · simp only [decStep, if_neg hzero, if_neg hshort] at h
    split_ifs at h with hmed
    · rcases rest with _ | ⟨b1, rest⟩
      · cases h
      · cases h
        exact ⟨rfl, by simp only [Instr.wf, decide_eq_true_eq]; omega⟩
    · obtain rfl : b0 = 0xFF := by bv_omega
      rcases rest with _ | ⟨op, arg⟩
      · cases h
      by_cases hindex : op = 1
      · subst hindex
        obtain ⟨hok, rfl⟩ := (decodeToken_escape .index arg i).mp h
        exact ⟨rfl, hok⟩
      by_cases hlong : op = 2
      · subst hlong
        obtain ⟨hok, rfl⟩ := (decodeToken_escape .long arg i).mp h
        exact ⟨rfl, hok⟩
      · rw [decodeToken_reserved op arg hindex hlong] at h
        cases h
        exact ⟨rfl, decide_eq_true ⟨hindex, hlong⟩⟩

theorem decode_token (bytes : List Byte) (i : Instr) : decode (.token bytes) = .ok i ↔
    decodeToken .tok bytes = some (i, []) := by
  rw [decode]
  rcases decodeToken .tok bytes with _ | ⟨j, _ | ⟨b, rest⟩⟩ <;> simp

/-! ### Packets -/

/-- What the format makes of a packet's fields encodes to that packet, and is well formed. -/
def FormatInverts (op : Byte) (format : List Byte → Option Instr) : Prop :=
  ∀ (fields : List Byte) (i : Instr), fields.length ≤ 253 → format fields = some i →
    encode i = packetOf op fields ∧ i.wf = true

theorem formatF0_inverts (op : Byte) (i : Instr) (h : encode i = packetOf op [] ∧ i.wf = true) :
    FormatInverts op (formatF0 i)
  | [], _, _, rfl => h

theorem formatF1_inverts (op : Byte) (mk : Byte → Instr)
    (h : ∀ a, encode (mk a) = packetOf op [a] ∧ (mk a).wf = true) : FormatInverts op (formatF1 mk)
  | [a], _, _, rfl => h a

theorem formatF2_inverts (op : Byte) (mk : Byte → Byte → Instr)
    (h : ∀ a b, encode (mk a b) = packetOf op [a, b] ∧ (mk a b).wf = true) : FormatInverts op (formatF2 mk)
  | [a, b], _, _, rfl => h a b

theorem formatF4_inverts (op : Byte) (mk : U32 → Instr)
    (h : ∀ v, encode (mk v) = packetOf op (le32 v) ∧ (mk v).wf = true) : FormatInverts op (formatF4 mk)
  | [a, b, c, d], _, _, rfl => by
    have hv := h (rd32 a b c d)
    rwa [le32_rd32] at hv

theorem formatFO_inverts (op : Byte) (mk : Option Byte → Instr)
    (h : ∀ a, encode (mk a) = packetOf op a.toList ∧ (mk a).wf = true) : FormatInverts op (formatFO mk)
  | [], _, _, rfl => h none
  | [a], _, _, rfl => h (some a)

theorem formatFV_inverts (op : Byte) (mk : Byte → List Byte → Instr)
    (h : ∀ a data, data.length ≤ 252 → encode (mk a data) = packetOf op (a :: data) ∧ (mk a data).wf = true) :
    FormatInverts op (formatFV mk)
  | a :: data, _, hl, rfl => h a data (by simp only [List.length_cons] at hl; omega)

/-- Every row of the opcode map, in the order of the opcodes (R92). -/
theorem commandFormat_inverts (n : Nat) (format : List Byte → Option Instr) (h : commandFormat n = some format) :
    FormatInverts (byteOf n) format :=
  match n, h with
  | 0, rfl => formatF1_inverts _ .getInfo fun _ => ⟨rfl, rfl⟩
  | 2, rfl => formatF1_inverts _ .seek fun _ => ⟨rfl, rfl⟩
  | 3, rfl => formatF1_inverts _ .side fun _ => ⟨rfl, rfl⟩
  | 4, rfl => formatFV_inverts _ .setParams fun _ _ hl => ⟨rfl, decide_eq_true hl⟩
  | 5, rfl => formatF2_inverts _ .getParams fun _ _ => ⟨rfl, rfl⟩
  | 6, rfl => formatF2_inverts _ .motor fun _ _ => ⟨rfl, rfl⟩
  | 7, rfl => formatFO_inverts _ .readFlux fun _ => ⟨rfl, rfl⟩
  | 8, rfl => formatFO_inverts _ .writeFlux fun _ => ⟨rfl, rfl⟩
  | 9, rfl => formatF0_inverts _ .getFluxStatus ⟨rfl, rfl⟩
  | 10, rfl => formatF2_inverts _ .getIndexTimes fun _ _ => ⟨rfl, rfl⟩
  | 11, rfl => formatF1_inverts _ .switchFwMode fun _ => ⟨rfl, rfl⟩
  | 12, rfl => formatF1_inverts _ .select fun _ => ⟨rfl, rfl⟩
  | 13, rfl => formatF0_inverts _ .deselect ⟨rfl, rfl⟩
  | 14, rfl => formatF1_inverts _ .setBusType fun _ => ⟨rfl, rfl⟩
  | 15, rfl => formatF2_inverts _ .setPin fun _ _ => ⟨rfl, rfl⟩
  | 16, rfl => formatF0_inverts _ .reset ⟨rfl, rfl⟩
  | 17, rfl => formatF4_inverts _ .eraseFlux fun _ => ⟨rfl, rfl⟩
  | 18, rfl => formatF4_inverts _ .sourceBytes fun _ => ⟨rfl, rfl⟩
  | 19, rfl => formatF4_inverts _ .sinkBytes fun _ => ⟨rfl, rfl⟩

/-- The opcodes with no row are 1 and those above 19. -/
theorem commandFormat_eq_none (n : Nat) (h : commandFormat n = none) : n = 1 ∨ 20 ≤ n :=
  match n, h with
  | 1, _ => .inl rfl
  | _ + 20, _ => .inr (by omega)

/-- The rows of R100 divide the opcodes that are not known. -/
theorem illegalRow_inverts (op : Byte) (body : List Byte) (hop : op.toNat = 1 ∨ 20 ≤ op.toNat)
    (hl : body.length ≤ 253) : encode (illegalRow op body) = packetOf op body ∧ (illegalRow op body).wf = true := by
  unfold illegalRow
  split_ifs
  · obtain rfl : op = 1 := by bv_omega
    exact ⟨rfl, decide_eq_true hl⟩
  all_goals
    refine ⟨rfl, ?_⟩
    simp only [Instr.wf, packetBodyOk, Bool.and_eq_true, decide_eq_true_eq]
    omega

/-- A packet that decodes to an instruction is the encoding of that instruction, which is well formed. -/
theorem encode_of_decodePacket (bytes : List Byte) (i : Instr) (h : decodePacket bytes = .ok i) :
    encode i = .packet bytes ∧ i.wf = true := by
  rcases bytes with _ | ⟨op, _ | ⟨len, body⟩⟩
  · cases h
  · cases h
  simp only [decodePacket] at h
  split_ifs at h with hshort hbody hlen
  · cases h
    rw [hbody]
    exact ⟨rfl, decide_eq_true hshort⟩
  · have hmax := len.isLt
    have hl : body.length ≤ 253 := by omega
    have hpacket : packetOf op body = .packet (op :: len :: body) := by
      rw [packetOf, not_not.mp hlen, byteOf_toNat_self]
    rw [← hpacket]
    split at h
    case h_1 hnone =>
      cases h
      exact illegalRow_inverts op body (commandFormat_eq_none _ hnone) hl
    case h_2 format hrow =>
      split at h
      case h_1 j hj =>
        cases h
        have hinv := commandFormat_inverts _ format hrow body i hl hj
        rwa [byteOf_toNat_self] at hinv
      case h_2 => cases h

/-- Settles O2: packets by their formats, tokens by the decoder's phases, and the control channel's two values. -/
theorem encodeOfDecodeIsIdentity : Obligations.EncodeOfDecodeIsIdentity := by
  intro w i h
  cases w with
  | packet bytes => exact encode_of_decodePacket bytes i h
  | token bytes => exact encode_of_decodeToken bytes i ((decode_token bytes i).mp h)
  | ctrl v =>
    by_cases hv : v = 10000
    · subst hv
      rw [decode_ctrl_clearComms] at h
      cases h
      exact ⟨rfl, rfl⟩
    · rw [decode_ctrl_normal v hv] at h
      cases h
      exact ⟨rfl, decide_eq_true hv⟩

/-! ### Encoded instructions decode -/

/-- A packet of an opcode that is not known decodes to the row of its opcode. -/
theorem decode_illegalRow (op : Byte) (body : List Byte) (hop : op.toNat = 1 ∨ 20 ≤ op.toNat)
    (hl : body.length ≤ 253) : decode (packetOf op body) = .ok (illegalRow op body) := by
  rw [packetOf, decode, decodePacket_packet op body hl, commandFormat_none _ hop]

/-- The encodings of packets decode, each by the format of its opcode. -/
theorem decode_encode_packet (i : Instr) (hp : isPacket i = true) (hwf : i.wf = true) :
    decode (encode i) = .ok i := by
  cases i with
  | getInfo idx => exact decodePacket_of_format 0 [idx] (formatF1 .getInfo) _ (by simp) rfl rfl
  | seek cyl => exact decodePacket_of_format 2 [cyl] (formatF1 .seek) _ (by simp) rfl rfl
  | side sd => exact decodePacket_of_format 3 [sd] (formatF1 .side) _ (by simp) rfl rfl
  | setParams idx data =>
    have hl : data.length ≤ 252 := of_decide_eq_true hwf
    exact decodePacket_of_format 4 (idx :: data) (formatFV .setParams) _ (by simp; omega) rfl rfl
  | getParams idx nr => exact decodePacket_of_format 5 [idx, nr] (formatF2 .getParams) _ (by simp) rfl rfl
  | motor drive on => exact decodePacket_of_format 6 [drive, on] (formatF2 .motor) _ (by simp) rfl rfl
  | readFlux n => cases n with
    | none => exact decodePacket_of_format 7 [] (formatFO .readFlux) _ (by simp) rfl rfl
    | some n => exact decodePacket_of_format 7 [n] (formatFO .readFlux) _ (by simp) rfl rfl
  | writeFlux t => cases t with
    | none => exact decodePacket_of_format 8 [] (formatFO .writeFlux) _ (by simp) rfl rfl
    | some t => exact decodePacket_of_format 8 [t] (formatFO .writeFlux) _ (by simp) rfl rfl
  | getFluxStatus => exact decodePacket_of_format 9 [] (formatF0 .getFluxStatus) _ (by simp) rfl rfl
  | getIndexTimes first nr =>
    exact decodePacket_of_format 10 [first, nr] (formatF2 .getIndexTimes) _ (by simp) rfl rfl
  | switchFwMode mode => exact decodePacket_of_format 11 [mode] (formatF1 .switchFwMode) _ (by simp) rfl rfl
  | select drive => exact decodePacket_of_format 12 [drive] (formatF1 .select) _ (by simp) rfl rfl
  | deselect => exact decodePacket_of_format 13 [] (formatF0 .deselect) _ (by simp) rfl rfl
  | setBusType type => exact decodePacket_of_format 14 [type] (formatF1 .setBusType) _ (by simp) rfl rfl
  | setPin pin level => exact decodePacket_of_format 15 [pin, level] (formatF2 .setPin) _ (by simp) rfl rfl
  | reset => exact decodePacket_of_format 16 [] (formatF0 .reset) _ (by simp) rfl rfl
  | eraseFlux v =>
    exact decodePacket_of_format 17 (le32 v) (formatF4 .eraseFlux) _ (by simp [le32]) rfl
      (congrArg (some ∘ Instr.eraseFlux) (rd32_le32 v))
  | sourceBytes v =>
    exact decodePacket_of_format 18 (le32 v) (formatF4 .sourceBytes) _ (by simp [le32]) rfl
      (congrArg (some ∘ Instr.sourceBytes) (rd32_le32 v))
  | sinkBytes v =>
    exact decodePacket_of_format 19 (le32 v) (formatF4 .sinkBytes) _ (by simp [le32]) rfl
      (congrArg (some ∘ Instr.sinkBytes) (rd32_le32 v))
  | reserved01 body => exact decode_illegalRow 1 body (.inl rfl) (of_decide_eq_true hwf)
  | badLength op len =>
    have hlen : len.toNat < 2 := of_decide_eq_true hwf
    simp [encode, decode, decodePacket, hlen]
  | unknown14to17 op body | unknown18to1F op body | unknown20to3F op body | unknown40to7F op body
  | unknown80toFF op body =>
    simp only [Instr.wf, packetBodyOk, Bool.and_eq_true, decide_eq_true_eq] at hwf
    obtain ⟨hop, hl⟩ := hwf
    rw [encode, decode_illegalRow op body (by omega) hl, illegalRow]
    split_ifs <;> first | rfl | omega
  | _ => cases hp

/-- The encodings of tokens decode. -/
theorem decode_encode_token (i : Instr) (bytes : List Byte) (henc : encode i = .token bytes) (hwf : i.wf = true) :
    decode (.token bytes) = .ok i := by
  rw [decode_token]
  cases i with
  | fluxEos => cases henc; rfl
  | fluxShort b =>
    cases henc
    have hb : 1 ≤ b.toNat ∧ b.toNat ≤ 249 := of_decide_eq_true hwf
    have hne : b ≠ 0 := by bv_omega
    simp only [decodeToken, decToken, if_neg hne, if_pos hb.2]
  | fluxMed b0 b1 =>
    cases henc
    have hb : 250 ≤ b0.toNat ∧ b0.toNat ≤ 254 := of_decide_eq_true hwf
    have hne : b0 ≠ 0 := by bv_omega
    simp only [decodeToken, decToken, decStep, if_neg hne, if_neg (show ¬ b0.toNat ≤ 249 by omega), if_pos hb.2]
  | fluxIndex arg => cases henc; exact (decodeToken_escape .index arg _).mpr ⟨hwf, rfl⟩
  | fluxLong arg => cases henc; exact (decodeToken_escape .long arg _).mpr ⟨hwf, rfl⟩
  | fluxReserved op =>
    cases henc
    have hop : op ≠ 1 ∧ op ≠ 2 := of_decide_eq_true hwf
    exact decodeToken_reserved op [] hop.1 hop.2
  | _ => cases henc

/-- Settles O1: by the wire that carries the instruction. -/
theorem decodeOfEncodeIsIdentity : Obligations.DecodeOfEncodeIsIdentity := by
  intro i hwf
  cases henc : encode i with
  | packet bytes =>
    rw [← henc]
    exact decode_encode_packet i (by simp [isPacket, henc]) hwf
  | token bytes => exact decode_encode_token i bytes henc hwf
  | ctrl v =>
    cases i with
    | ctrlNormal u => cases henc; exact decode_ctrl_normal _ (of_decide_eq_true hwf)
    | ctrlClearComms => cases henc; exact decode_ctrl_clearComms
    | _ => cases henc

/-- Settles O4: each word decodes to an instruction whose encoding it is. -/
theorem writtenWordsDecode : Obligations.WrittenWordsDecode :=
  ⟨decodeOfEncodeIsIdentity (.seek 5) rfl, decodeOfEncodeIsIdentity (.setPin 2 1) rfl,
    decodeOfEncodeIsIdentity (.eraseFlux 72000) rfl, decodeOfEncodeIsIdentity (.readFlux none) rfl,
    decodeOfEncodeIsIdentity (.badLength 5 0) rfl,
    decodeOfEncodeIsIdentity (.unknown80toFF 0xFF [0xAA, 0xBB, 0xCC]) rfl,
    decodeOfEncodeIsIdentity (.fluxMed 0xFA 0x33) rfl,
    decodeOfEncodeIsIdentity (.fluxLong [0xA1, 0x1F, 0x01, 0x01]) rfl,
    decodeOfEncodeIsIdentity .ctrlClearComms rfl⟩

end Sys2Proof.Machine
end

section
/-!
The commands of the remaining opcodes (R124, R125, R156, R158, R176, R178, R185, R189, R260, R265): one lemma per
command says its whole next state, in the order of its checks.
-/

namespace Sys2Proof.Machine

/-! ### CMD_GET_FLUX_STATUS and CMD_GET_INDEX_TIMES (R156, R158) -/

theorem exec_getFluxStatus (s : State) :
    exec .getFluxStatus s = .next (s.answered s.dev [] s.dev.fluxStatus []) :=
  congrArg Host.Outcome.next (s.finish_eq s.dev.fluxStatus [])

/-- Settles O33: the command's packet is its encoding, and its end is an answer with the stored status. -/
theorem getFluxStatusResult : Obligations.GetFluxStatusResult :=
  fun s => ⟨decodeOfEncodeIsIdentity .getFluxStatus rfl, exec_getFluxStatus s⟩

/-- The payload is the entries in order, from the first one asked for. -/
theorem State.idxBytes_eq (s : State) (first nr : Nat) :
    s.idxBytes first nr = (List.range nr).flatMap fun i => le32 (s.idxRead (first + i)) := by
  induction nr generalizing first with
  | zero => rfl
  | succ nr ih =>
    rw [State.idxBytes, ih, List.range_succ_eq_map, List.flatMap_cons, List.flatMap_map]
    simp only [Nat.add_zero, Nat.succ_eq_add_one, Nat.add_assoc, Nat.add_comm 1]

/-- The bound on the last entry is the only check; its sum is of natural numbers. -/
theorem exec_getIndexTimes (first nr : Byte) (s : State) : exec (.getIndexTimes first nr) s = .next
    (if first.toNat + nr.toNat > s.cfg.maxIndex.toNat then s.refused .badCommand
     else s.answered s.dev [] .okay (s.idxBytes first.toNat nr.toNat)) := by
  simp only [exec, execGetIndexTimes, State.finish_eq, State.raiseAck_eq]

/-- Settles O34: the two sides of `exec_getIndexTimes`'s bound, with the payload entry by entry. -/
theorem getIndexTimesResult : Obligations.GetIndexTimesResult := by
  intro first nr s
  refine ⟨decodeOfEncodeIsIdentity (.getIndexTimes first nr) rfl, fun hle => ?accepted, fun hgt => ?refused⟩
  case accepted =>
    rw [exec_getIndexTimes, if_neg (Nat.not_lt.mpr hle), State.idxBytes_eq]
    rfl
  case refused => rw [exec_getIndexTimes, if_pos hgt]

/-! ### CMD_SET_BUS_TYPE (R176) -/

theorem busTypeOf_of_gt_two (b : Byte) (h : b.toNat > 2) : busTypeOf b = none := by
  have h0 : b ≠ 0 := by bv_omega
  have h1 : b ≠ 1 := by bv_omega
  have h2 : b ≠ 2 := by bv_omega
  rw [busTypeOf, if_neg h0, if_neg h1, if_neg h2]

theorem exec_setBusType_refused (type : Byte) (s : State) (htype : busTypeOf type = none) :
    exec (.setBusType type) s = .next (s.refused .badCommand) := by
  simp only [exec, execSetBusType, htype, State.raiseAck_eq]

/-- Any unit is released, also when the type is the one already set. -/
theorem exec_setBusType_okay (type : Byte) (t : BusType) (s : State) (htype : busTypeOf type = some t) :
    exec (.setBusType type) s = .next (s.answered { s.dev with sel := none, busType := t }
      (releaseCalls s.dev.sel ++ [.bus t]) .okay []) := by
  simp only [exec, execSetBusType, htype]
  refine congrArg Host.Outcome.next (State.finish_of s _ _ _ _ _ ?_)
  simp [State.releaseUnit_calls, State.call, State.setSel, State.setBus]

/-- Settles O39: the three types that exist, with and without a selected unit, and the refusal of every other. -/
theorem setBusTypeResult : Obligations.SetBusTypeResult := by
  intro type s
  refine ⟨decodeOfEncodeIsIdentity (.setBusType type) rfl,
    fun hgt => exec_setBusType_refused type s (busTypeOf_of_gt_two type hgt), fun t htype => ?accepted⟩
  case accepted =>
    have hbus : busTypeOf type = some t := by
      rcases htype with ⟨rfl, rfl⟩ | ⟨rfl, rfl⟩ | ⟨rfl, rfl⟩ <;> rfl
    refine ⟨fun hsel => ?noUnit, fun u hsel => ?unit⟩
    case noUnit => rw [exec_setBusType_okay type t s hbus, hsel, releaseCalls_none, ← hsel]; rfl
    case unit => rw [exec_setBusType_okay type t s hbus, hsel, releaseCalls_some]; rfl

/-! ### CMD_SET_PIN (R178) -/

theorem exec_setPin_unselected (pin level : Byte) (s : State) (hsel : s.dev.sel = none) :
    exec (.setPin pin level) s = .next (s.refused .noUnit) := by
  simp only [exec, execSetPin, hsel, State.raiseAck_eq]

theorem State.pinWrite_finish (p : Byte) (v : Bool) (s : State) :
    ((s.pinWrite p v).call (.pin p v)).finish .okay [] =
      s.answered { s.dev with pin := s.dev.pin.map fun r => if r.id = p then ⟨p, v⟩ else r } [.pin p v] .okay [] :=
  State.finish_of s _ _ _ _ _ (by rw [← setPinLevel_eq_map]; rfl)

/-- With a unit selected, whichever it is, that the pin exists is the only check. -/
theorem exec_setPin_selected (pin level : Byte) (s : State) (hsel : s.dev.sel ≠ none) :
    exec (.setPin pin level) s = .next
      (if pin ∉ s.cfg.pins then s.refused .badPin
       else s.answered { s.dev with pin := s.dev.pin.map fun r => if r.id = pin then ⟨pin, boolOf level⟩ else r }
        [.pin pin (boolOf level)] .okay []) := by
  obtain ⟨u, hu⟩ := Option.ne_none_iff_exists'.mp hsel
  simp only [exec, execSetPin, hu, State.pinWrite_finish, State.raiseAck_eq]

/-- Settles O40: the selection is checked before the pin. -/
theorem setPinResult : Obligations.SetPinResult := by
  intro pin level s
  refine ⟨decodeOfEncodeIsIdentity (.setPin pin level) rfl, exec_setPin_unselected pin level s,
    fun hsel hpin => ?badPin, fun hsel hpin => ?accepted⟩
  case badPin => rw [exec_setPin_selected pin level s hsel, if_pos hpin]
  case accepted => rw [exec_setPin_selected pin level s hsel, if_neg (not_not.mpr hpin)]; rfl

/-! ### CMD_RESET (R185) -/

/-- The device registers that CMD_RESET leaves: all at their reset value but the latch. -/
def Device.resetTo (c : Config) (d : Device) : Device :=
  { d.withDefaults c with
    fluxStatus := .okay
    capValid := false
    idxTime := List.replicate c.maxIndex.toNat 0
    bwMin := ⟨0, 0⟩
    bwMax := ⟨0, 0⟩ }

theorem exec_reset (s : State) :
    exec .reset s = .next (s.answered (s.dev.resetTo s.cfg) [.resetDefaults] .okay []) :=
  congrArg Host.Outcome.next (State.finish_of s _ _ _ _ _ rfl)

/-- Settles O41: the group `DEFAULTS` and the registers that CMD_RESET alone restores. -/
theorem resetResult : Obligations.ResetResult :=
  fun s => ⟨decodeOfEncodeIsIdentity .reset rfl, exec_reset s⟩

/-! ### The packets of no command (R124, R125, R189) -/

theorem exec_badLength (op len : Byte) (s : State) : exec (.badLength op len) s = .next (s.refused .badCommand) :=
  congrArg Host.Outcome.next ((s.setRxCnt 0).raiseAck_eq .badCommand)

/-- Settles O43: every one of them is the entry of the refusal. -/
theorem illegalPacketsRefused : Obligations.IllegalPacketsRefused := by
  intro op len body s
  have hrefused : (.next (s.raiseAck .badCommand) : Host.Outcome State Fault Refusal) =
      .next (s.refused .badCommand) := by rw [State.raiseAck_eq]
  exact ⟨hrefused, hrefused, hrefused, hrefused, hrefused, hrefused, exec_badLength op len s⟩

/-! ### CMD_SOURCE_BYTES and CMD_SINK_BYTES (R260, R265) -/

theorem exec_sourceBytes (n : U32) (s : State) : exec (.sourceBytes n) s = .next
    (s.started s.dev { s.strm with xferLeft := n, xferBytes := 0 } [] (if n = 0 then .idle else .src)) :=
  congrArg Host.Outcome.next (State.enterStream_of s _ _ _ _ _ (by simp))

theorem exec_sinkBytes (n : U32) (s : State) : exec (.sinkBytes n) s = .next
    (s.started s.dev { s.strm with xferLeft := n, xferBytes := 0 } [] (if n = 0 then .idle else .sink)) :=
  congrArg Host.Outcome.next (State.enterStream_of s _ _ _ _ _ (by simp))

/-- Settles O48: the packet's four bytes are the little-endian count, and a count of 0 enters no mode. -/
theorem throughputCommandsStart : Obligations.ThroughputCommandsStart := by
  intro b0 b1 b2 b3 n s hn
  have hrd : rd32 b0 b1 b2 b3 = n := BitVec.eq_of_toNat_eq ((rd32_toNat b0 b1 b2 b3).trans hn.symm)
  refine ⟨?decodeSource, ?decodeSink, fun hzero => ⟨?sourceIdle, ?sinkIdle⟩, fun hsome => ⟨?source, ?sink⟩⟩
  case decodeSource =>
    rw [← hrd]
    exact decodePacket_of_format 0x12 [b0, b1, b2, b3] (formatF4 .sourceBytes) _ (by simp) rfl rfl
  case decodeSink =>
    rw [← hrd]
    exact decodePacket_of_format 0x13 [b0, b1, b2, b3] (formatF4 .sinkBytes) _ (by simp) rfl rfl
  case sourceIdle => rw [exec_sourceBytes, if_pos hzero]
  case sinkIdle => rw [exec_sinkBytes, if_pos hzero]
  case source => rw [exec_sourceBytes, if_neg hsome]
  case sink => rw [exec_sinkBytes, if_neg hsome]

end Sys2Proof.Machine
end

section
/-!
`bw_sample` (R263, R269): a void sample, the first sample, and a later one, which replaces the extrema it exceeds.
-/

namespace Sys2Proof.Machine

theorem bwOk_of_sampled (mn mx : BwPair) (hn : mn.usecs ≠ 0) : bwOk mn mx = true ↔
    mn.bytes ≠ 0 ∧ mx.bytes ≠ 0 ∧ mx.usecs ≠ 0 ∧ mn.bytes.toNat * mx.usecs.toNat ≤ mx.bytes.toNat * mn.usecs.toNat := by
  simp only [bwOk, if_neg hn, decide_eq_true_eq]

theorem State.bwSample_void (b u : U32) (s : State) (h : b = 0 ∨ u = 0) : s.bwSample b u = s := if_pos h

theorem State.bwSample_first (b u : U32) (s : State) (hb : b ≠ 0) (hu : u ≠ 0) (h : s.dev.bwMin.usecs = 0) :
    s.bwSample b u = { s with dev := { s.dev with bwMin := ⟨b, u⟩, bwMax := ⟨b, u⟩ } } := by
  rw [State.bwSample, if_neg (not_or.mpr ⟨hb, hu⟩), if_pos h]

theorem State.bwSample_later (b u : U32) (s : State) (hb : b ≠ 0) (hu : u ≠ 0) (h : s.dev.bwMin.usecs ≠ 0) :
    s.bwSample b u = { s with dev := { s.dev with
      bwMin := if b.toNat * s.dev.bwMin.usecs.toNat < s.dev.bwMin.bytes.toNat * u.toNat then ⟨b, u⟩ else s.dev.bwMin,
      bwMax := if b.toNat * s.dev.bwMax.usecs.toNat > s.dev.bwMax.bytes.toNat * u.toNat then ⟨b, u⟩
        else s.dev.bwMax } } := by
  rw [State.bwSample, if_neg (not_or.mpr ⟨hb, hu⟩), if_neg h]

/-- Settles O29: throughputs are compared cross-multiplied, so an extremum that is kept bounds the sample because the
comparison that would replace it failed. -/
theorem bwSampleKeepsExtrema : Obligations.BwSampleKeepsExtrema := by
  intro b u s hok
  refine ⟨s.bwSample_void b u, fun hb hu => ?_⟩
  by_cases hfirst : s.dev.bwMin.usecs = 0
  · exact ⟨_, _, s.bwSample_first b u hb hu hfirst, (bwOk_of_sampled _ _ hu).mpr ⟨hb, hb, hu, le_rfl⟩, le_rfl, le_rfl,
      fun _ => ⟨rfl, rfl⟩, fun h => absurd hfirst h⟩
  · refine ⟨_, _, s.bwSample_later b u hb hu hfirst, ?_⟩
    obtain ⟨hnb, hxb, hxu, -⟩ := (bwOk_of_sampled _ _ hfirst).mp hok
    split_ifs with hmin hmax hmax
    case pos => -- the sample is both extrema
      exact ⟨(bwOk_of_sampled _ _ hu).mpr ⟨hb, hb, hu, le_rfl⟩, le_rfl, le_rfl, fun h => absurd h hfirst,
        fun _ => ⟨.inr rfl, .inr rfl, hmin.le, hmax.le⟩⟩
    case neg => -- the sample is the minimum
      have hbound := not_lt.mp hmax
      exact ⟨(bwOk_of_sampled _ _ hu).mpr ⟨hb, hxb, hxu, hbound⟩, le_rfl, hbound, fun h => absurd h hfirst,
        fun _ => ⟨.inr rfl, .inl rfl, hmin.le, le_rfl⟩⟩
    case pos => -- the sample is the maximum
      have hbound := not_lt.mp hmin
      exact ⟨(bwOk_of_sampled _ _ hfirst).mpr ⟨hnb, hb, hu, hbound⟩, hbound, le_rfl, fun h => absurd h hfirst,
        fun _ => ⟨.inl rfl, .inr rfl, le_rfl, hmax.le⟩⟩
    case neg => -- both extrema are kept
      exact ⟨hok, not_lt.mp hmin, not_lt.mp hmax, fun h => absurd h hfirst,
        fun _ => ⟨.inl rfl, .inl rfl, le_rfl, le_rfl⟩⟩

/-- A sample keeps the invariant of the statistics. -/
theorem State.bwSample_ok (b u : U32) (s : State) (h : bwOk s.dev.bwMin s.dev.bwMax = true) :
    bwOk (s.bwSample b u).dev.bwMin (s.bwSample b u).dev.bwMax = true := by
  obtain ⟨hvoid, hsample⟩ := bwSampleKeepsExtrema b u s h
  by_cases hbu : b = 0 ∨ u = 0
  · rwa [hvoid hbu]
  · obtain ⟨hb, hu⟩ := not_or.mp hbu
    obtain ⟨mn, mx, heq, hok, -⟩ := hsample hb hu
    rwa [heq]

end Sys2Proof.Machine
end

section
/-!
What a command can do, said once (R53, R72, R128, R292, R297): `CommandEnds` lists its three ends, and `commandEnds`
proves that every instruction of a packet has one of them. What a flux token can do is `TokenEnds`.
-/

namespace Sys2Proof.Machine

/-! ### The ends of a command -/

/-- Calls made and answers drawn before a command's end. -/
def State.called (calls : List ActCall) (a : Answers) (n : Nat) (s : State) : State :=
  { s with env := { s.env with act := s.env.act ++ calls, answers := a, draws := n } }

/-- No call and no draw. -/
theorem State.called_nil (s : State) : s.called [] s.env.answers s.env.draws = s := by
  simp [State.called]

/-- The leading ack of an answer, and what may follow it: `OKAY` of the instruction's list and any payload, or the
stored status that CMD_GET_FLUX_STATUS answers and nothing. -/
def AnswerAck (i : Instr) (s : State) (c : AckCode) (payload : List Byte) : Prop :=
  (c = .okay ∧ .okay ∈ leadingAcks i) ∨ (i = .getFluxStatus ∧ c = s.dev.fluxStatus ∧ payload = [])

/-- The mode and the registers with which a streaming command starts its stream. -/
def Starts (i : Instr) (c : Config) (dev : Device) (strm : Stream) (m : Mode) : Prop :=
  match i with
  | .readFlux _ =>
    m = .rdStream ∧ strm.rdSeen = 0 ∧ strm.rdTarget ≠ 0 ∧ strm.rdTarget.toNat ≤ c.maxIndex.toNat ∧
      dev.capValid = false ∧ dev.idxTime = List.replicate c.maxIndex.toNat 0
  | .writeFlux _ => m = .wrStream ∧ strm.dec = .tok ∧ strm.wrResult = .okay
  | .sourceBytes n => m = (if n = 0 then .idle else .src) ∧ strm.xferLeft = n
  | .sinkBytes n => m = (if n = 0 then .idle else .sink) ∧ strm.xferLeft = n
  | _ => False

/-- The device registers are well formed: `Device.wf`, its conditions by name. -/
structure Device.Shape (c : Config) (d : Device) : Prop where
  sel : selOk c d = true
  motor : d.motor.length = c.maxUnit.toNat + 1
  cyl : d.cyl.length = c.maxUnit.toNat + 1
  side : d.side.length = c.maxUnit.toNat + 1
  pin : d.pin.map PinReg.id = c.pins
  delay : d.delay.length = 10
  idxTime : d.idxTime.length = c.maxIndex.toNat
  status : fluxStatusOk d.fluxStatus = true
  bw : bwOk d.bwMin d.bwMax = true

theorem Device.wf_iff (c : Config) (d : Device) : d.wf c = true ↔ d.Shape c := by
  simp only [Device.wf, Bool.and_eq_true, decide_eq_true_eq]
  exact ⟨fun ⟨⟨⟨⟨⟨⟨⟨⟨sel, motor⟩, cyl⟩, side⟩, pin⟩, delay⟩, idxTime⟩, status⟩, bw⟩ =>
      ⟨sel, motor, cyl, side, pin, delay, idxTime, status, bw⟩,
    fun ⟨sel, motor, cyl, side, pin, delay, idxTime, status, bw⟩ =>
      ⟨⟨⟨⟨⟨⟨⟨⟨sel, motor⟩, cyl⟩, side⟩, pin⟩, delay⟩, idxTime⟩, status⟩, bw⟩⟩

/-- The ends of a command: a refusal, an answer, or the start of a stream. The device registers change within the
command's row of the writer matrix, and stay well formed. -/
inductive CommandEnds (i : Instr) (s : State) : State → Prop
  | refused (c : AckCode) (calls : List ActCall) (a : Answers) (n : Nat) (hack : c ∈ leadingAcks i) (hne : c ≠ .okay)
    (hcalls : refusalCalls c calls) : CommandEnds i s ((s.called calls a n).refused c)
  | answered (dev : Device) (made calls : List ActCall) (a : Answers) (n : Nat) (c : AckCode) (payload : List Byte)
    (hack : AnswerAck i s c payload) (hwrites : writesOnly i s.dev dev)
    (hshape : s.cfg.wf = true → s.dev.Shape s.cfg → dev.Shape s.cfg) :
    CommandEnds i s ((s.called made a n).answered dev calls c payload)
  | started (dev : Device) (strm : Stream) (made calls : List ActCall) (a : Answers) (n : Nat) (m : Mode)
    (hack : .okay ∈ leadingAcks i) (hwrites : writesOnly i s.dev dev)
    (hshape : s.cfg.wf = true → s.dev.Shape s.cfg → dev.Shape s.cfg) (hstart : Starts i s.cfg dev strm m) :
    CommandEnds i s ((s.called made a n).started dev strm calls m)

/-- Writing nothing is within every row of the writer matrix. -/
theorem writesOnly_refl (i : Instr) (d : Device) : writesOnly i d d := by
  cases i <;> rfl

section
variable {i : Instr} {s : State}

/-- A refusal for which the collaborator was not asked. -/
theorem CommandEnds.of_refused (c : AckCode) (hack : c ∈ leadingAcks i) (hne : c ≠ .okay)
    (hcalls : refusalCalls c []) : CommandEnds i s (s.refused c) := by
  have h := CommandEnds.refused (s := s) c [] s.env.answers s.env.draws hack hne hcalls
  rwa [State.called_nil] at h

/-- An answer for which nothing was drawn. -/
theorem CommandEnds.of_answered (dev : Device) (calls : List ActCall) (payload : List Byte)
    (hack : .okay ∈ leadingAcks i) (hwrites : writesOnly i s.dev dev)
    (hshape : s.cfg.wf = true → s.dev.Shape s.cfg → dev.Shape s.cfg) :
    CommandEnds i s (s.answered dev calls .okay payload) := by
  have h := CommandEnds.answered dev [] calls s.env.answers s.env.draws .okay payload (.inl ⟨rfl, hack⟩) hwrites hshape
  rwa [State.called_nil] at h

/-- An answer that writes no device register. -/
theorem CommandEnds.of_kept (calls : List ActCall) (payload : List Byte) (hack : .okay ∈ leadingAcks i) :
    CommandEnds i s (s.answered s.dev calls .okay payload) :=
  .of_answered s.dev calls payload hack (writesOnly_refl i s.dev) fun _ h => h

/-- A stream that starts with no answer drawn. -/
theorem CommandEnds.of_started (dev : Device) (strm : Stream) (calls : List ActCall) (m : Mode)
    (hack : .okay ∈ leadingAcks i) (hwrites : writesOnly i s.dev dev)
    (hshape : s.cfg.wf = true → s.dev.Shape s.cfg → dev.Shape s.cfg) (hstart : Starts i s.cfg dev strm m) :
    CommandEnds i s (s.started dev strm calls m) := by
  have h := CommandEnds.started dev strm [] calls s.env.answers s.env.draws m hack hwrites hshape hstart
  rwa [State.called_nil] at h

end

theorem delayReset_length (c : Config) (hc : c.wf = true) : c.delayReset.length = 10 := by
  simp only [Config.wf, Bool.and_eq_true, decide_eq_true_eq] at hc
  exact hc.2

/-- The group `DEFAULTS` is well formed under every legal configuration, whatever it replaces. -/
theorem Device.Shape.withDefaults {c : Config} {d : Device} (hc : c.wf = true) (h : d.Shape c) :
    (d.withDefaults c).Shape c :=
  { h with
    sel := rfl
    motor := List.length_replicate
    cyl := List.length_replicate
    side := List.length_replicate
    pin := by simp [Device.withDefaults, Function.comp_def]
    delay := delayReset_length c hc }

/-- CMD_RESET leaves well formed registers. -/
theorem Device.Shape.resetTo {c : Config} {d : Device} (hc : c.wf = true) (h : d.Shape c) : (d.resetTo c).Shape c :=
  { h.withDefaults hc with idxTime := List.length_replicate, status := rfl, bw := rfl }

/-- Every end of every instruction of a packet. -/
theorem commandEnds (i : Instr) (s t : State) (hp : isPacket i = true) (h : exec i s = .next t) :
    CommandEnds i s t := by
  cases i with
  | getInfo idx =>
    rw [exec_getInfo] at h
    split_ifs at h <;> cases h
    · exact .of_kept _ _ (by simp [leadingAcks])
    · exact .of_kept _ _ (by simp [leadingAcks])
    · exact .of_refused _ (by simp [leadingAcks]) nofun rfl
  | seek cyl =>
    rcases hsel : s.dev.sel with _ | u
    · rw [exec_seek_unselected cyl s hsel] at h
      cases h
      exact .of_refused _ (by simp [leadingAcks]) nofun rfl
    · obtain ⟨a, n, hcall⟩ := s.actSeek_spec u (s.cylRead u) cyl
      cases hans : (s.actSeek u (s.cylRead u) cyl).1 with
      | ok =>
        rw [exec_seek_ok cyl u s hsel hans, hcall] at h
        cases h
        exact .answered _ _ _ a n _ _ (.inl ⟨rfl, by simp [leadingAcks]⟩) rfl
          fun _ h => { h with cyl := List.length_set.trans h.cyl }
      | noTrk0 =>
        rw [exec_seek_noTrk0 cyl u s hsel hans, hcall] at h
        cases h
        exact .refused _ _ a n (by simp [leadingAcks]) nofun ⟨_, _, _, rfl⟩
  | side sd =>
    rcases hsel : s.dev.sel with _ | u
    · rw [exec_side_unselected sd s hsel] at h
      cases h
      exact .of_refused _ (by simp [leadingAcks]) nofun rfl
    · rcases hside : sideOf sd with _ | v
      · rw [exec_side_refused sd u s hsel hside] at h
        cases h
        exact .of_refused _ (by simp [leadingAcks]) nofun rfl
      · rw [exec_side_okay sd u v s hsel hside] at h
        cases h
        exact .of_answered _ _ _ (by simp [leadingAcks]) rfl
          fun _ h => { h with side := List.length_set.trans h.side }
  | setParams idx data =>
    rw [exec_setParams] at h
    split_ifs at h with hok <;> cases h
    · exact .of_answered _ _ _ (by simp [leadingAcks]) rfl fun _ h => { h with delay := hok.2 }
    · exact .of_refused _ (by simp [leadingAcks]) nofun rfl
  | getParams idx nr =>
    rw [exec_getParams] at h
    split_ifs at h <;> cases h
    · exact .of_kept _ _ (by simp [leadingAcks])
    · exact .of_refused _ (by simp [leadingAcks]) nofun rfl
  | motor drive on =>
    rw [exec_motor] at h
    split_ifs at h <;> cases h
    · exact .of_refused _ (by simp [leadingAcks]) nofun rfl
    · exact .of_answered _ _ _ (by simp [leadingAcks]) rfl
        fun _ h => { h with motor := List.length_set.trans h.motor }
  | readFlux field =>
    rw [exec_readFlux] at h
    split_ifs at h with hbad <;> cases h
    · exact .of_refused _ (by simp [leadingAcks]) nofun rfl
    · obtain ⟨hpos, hle⟩ := not_or.mp hbad
      exact .of_started _ _ _ _ (by simp [leadingAcks]) rfl
        (fun _ h => { h with idxTime := List.length_replicate }) ⟨rfl, rfl, hpos, Nat.not_lt.mp hle, rfl, rfl⟩
  | writeFlux field =>
    obtain ⟨a, n, hcall⟩ := s.actWrprot_spec
    rw [exec_writeFlux, hcall] at h
    split_ifs at h <;> cases h
    · exact .refused _ _ a n (by simp [leadingAcks]) nofun rfl
    · exact .started _ _ _ _ a n _ (by simp [leadingAcks]) rfl (fun _ h => h) ⟨rfl, rfl, rfl⟩
  | getFluxStatus =>
    rw [exec_getFluxStatus] at h
    cases h
    have hend := CommandEnds.answered (i := .getFluxStatus) s.dev [] [] s.env.answers s.env.draws _ []
      (.inr ⟨rfl, rfl, rfl⟩) rfl fun _ h => h
    rwa [State.called_nil] at hend
  | getIndexTimes first nr =>
    rw [exec_getIndexTimes] at h
    split_ifs at h <;> cases h
    · exact .of_refused _ (by simp [leadingAcks]) nofun rfl
    · exact .of_kept _ _ (by simp [leadingAcks])
  | switchFwMode mode =>
    rcases hmode : fwModeOf mode with _ | m
    · rw [exec_switchFwMode_refused mode s hmode] at h
      cases h
      exact .of_refused _ (by simp [leadingAcks]) nofun rfl
    · rw [exec_switchFwMode_okay mode m s hmode] at h
      cases h
      exact .of_kept _ _ (by simp [leadingAcks])
  | select drive =>
    rw [exec_select] at h
    split_ifs at h with hbus hunit hsel <;> cases h
    · exact .of_refused _ (by simp [leadingAcks]) nofun rfl
    · exact .of_refused _ (by simp [leadingAcks]) nofun rfl
    · exact .of_kept _ _ (by simp [leadingAcks])
    · exact .of_answered _ _ _ (by simp [leadingAcks]) rfl
        fun _ h => { h with sel := by simp [selOk, hbus, Nat.not_lt.mp hunit] }
  | deselect =>
    rw [exec_deselect] at h
    cases h
    exact .of_answered _ _ _ (by simp [leadingAcks]) rfl fun _ h => { h with sel := rfl }
  | setBusType type =>
    rcases htype : busTypeOf type with _ | b
    · rw [exec_setBusType_refused type s htype] at h
      cases h
      exact .of_refused _ (by simp [leadingAcks]) nofun rfl
    · rw [exec_setBusType_okay type b s htype] at h
      cases h
      exact .of_answered _ _ _ (by simp [leadingAcks]) rfl fun _ h => { h with sel := rfl }
  | setPin pin level =>
    by_cases hsel : s.dev.sel = none
    · rw [exec_setPin_unselected pin level s hsel] at h
      cases h
      exact .of_refused _ (by simp [leadingAcks]) nofun rfl
    · rw [exec_setPin_selected pin level s hsel] at h
      split_ifs at h
      · cases h
        refine .of_answered _ _ _ (by simp [leadingAcks]) rfl fun _ h => { h with pin := ?_ }
        rw [← setPinLevel_eq_map, setPinLevel_ids, h.pin]
      · cases h
        exact .of_refused _ (by simp [leadingAcks]) nofun rfl
  | reset =>
    rw [exec_reset] at h
    cases h
    exact .of_answered _ _ _ (by simp [leadingAcks]) rfl fun hc h => h.resetTo hc
  | eraseFlux ticks =>
    obtain ⟨a, n, hcall⟩ := s.actWrprot_spec
    rw [exec_eraseFlux, hcall] at h
    split_ifs at h <;> cases h
    · exact .refused _ _ a n (by simp [leadingAcks]) nofun rfl
    · exact .answered _ _ _ a n _ _ (.inl ⟨rfl, by simp [leadingAcks]⟩) rfl fun _ h => h
  | sourceBytes n =>
    rw [exec_sourceBytes] at h
    cases h
    exact .of_started _ _ _ _ (by simp [leadingAcks]) rfl (fun _ h => h) ⟨rfl, rfl⟩
  | sinkBytes n =>
    rw [exec_sinkBytes] at h
    cases h
    exact .of_started _ _ _ _ (by simp [leadingAcks]) rfl (fun _ h => h) ⟨rfl, rfl⟩
  | reserved01 body | unknown14to17 op body | unknown18to1F op body | unknown20to3F op body
  | unknown40to7F op body | unknown80toFF op body =>
    cases h
    rw [State.raiseAck_eq]
    exact .of_refused _ (by simp [leadingAcks]) nofun rfl
  | badLength op len =>
    rw [exec_badLength] at h
    cases h
    exact .of_refused _ (by simp [leadingAcks]) nofun rfl
  | _ => cases hp

/-! ### The ends of a token -/

/-- The instruction is carried by a flux token. -/
def isToken (i : Instr) : Bool :=
  match encode i with
  | .packet _ => false
  | .token _ => true
  | .ctrl _ => false

/-- What a token can do: nothing, an interval, the stop of a malformed one, and the two ends of the terminator. -/
inductive TokenEnds (i : Instr) (s : State) : State → Prop
  | ignored : TokenEnds i s s
  | played (n : Nat) : TokenEnds i s (s.call (.play n))
  | malformed (b : Byte) (hbad : malformedByte i = some b) : TokenEnds i s (s.fluxBad b)
  | waits (hi : i = .fluxEos) (htai : s.strm.wrTai = true) : TokenEnds i s ((s.call .playEnd).setMode .wrTail)
  | finishes (hi : i = .fluxEos) (htai : s.strm.wrTai = false) : TokenEnds i s (s.call .playEnd).wrFinish

theorem TokenEnds.of_malformed (i : Instr) (b : Byte) (s t : State) (hbad : malformedByte i = some b)
    (h : exec i s = .next t) : TokenEnds i s t := by
  rw [exec_of_malformed i b s hbad] at h
  cases h
  exact .malformed b hbad

/-- Every end of every token, well formed or not. -/
theorem tokenEnds (i : Instr) (s t : State) (hi : isToken i = true) (h : exec i s = .next t) : TokenEnds i s t := by
  cases hbad : malformedByte i with
  | some b => exact .of_malformed i b s t hbad h
  | none =>
    cases i with
    | fluxEos =>
      cases htai : s.strm.wrTai with
      | true => rw [exec_fluxEos_tail s htai] at h; cases h; exact .waits rfl htai
      | false => rw [exec_fluxEos_finish s htai] at h; cases h; exact .finishes rfl htai
    | fluxShort b => cases h; exact .played _
    | fluxMed b0 b1 =>
      have h1 : b1 ≠ 0 := by simpa [malformedByte] using hbad
      rw [exec_fluxMed b0 b1 s h1] at h
      cases h
      exact .played _
    | fluxIndex arg =>
      have hsome : fluxArg arg ≠ none := by simpa [malformedByte] using hbad
      obtain ⟨n, hn⟩ := Option.ne_none_iff_exists'.mp hsome
      rw [exec_fluxIndex arg n s hn] at h
      cases h
      exact .ignored
    | fluxLong arg =>
      obtain ⟨hsome, hne⟩ : fluxArg arg ≠ none ∧ fluxArg arg ≠ some 0 := by simpa [malformedByte] using hbad
      obtain ⟨n, hn⟩ := Option.ne_none_iff_exists'.mp hsome
      rw [exec_fluxLong arg n s hn (by rintro rfl; exact hne hn)] at h
      cases h
      exact .played n
    | fluxReserved op => cases hbad
    | _ => cases hi

/-- An instruction comes in a packet, as a token, or on the control channel. -/
theorem carrier_cases (i : Instr) :
    isPacket i = true ∨ isToken i = true ∨ i = .ctrlClearComms ∨ ∃ v, i = .ctrlNormal v := by
  cases i with
  | ctrlNormal v => exact .inr (.inr (.inr ⟨v, rfl⟩))
  | ctrlClearComms => exact .inr (.inr (.inl rfl))
  | fluxEos | fluxShort | fluxMed | fluxIndex | fluxLong | fluxReserved => exact .inr (.inl rfl)
  | _ => exact .inl rfl

/-! ### The writer matrix (R53) -/

/-- Of the rows with malformed forms, each may write the status. -/
theorem writesOnly_malformed (i : Instr) (b : Byte) (d : Device) (c : AckCode) (h : malformedByte i = some b) :
    writesOnly i d { d with fluxStatus := c } := by
  cases i with
  | fluxMed | fluxIndex | fluxLong | fluxReserved => rfl
  | _ => cases h

theorem CommandEnds.writesOnly {i : Instr} {s t : State} (h : CommandEnds i s t) : writesOnly i s.dev t.dev := by
  cases h with
  | refused => exact writesOnly_refl i s.dev
  | answered _ _ _ _ _ _ _ _ hwrites => exact hwrites
  | started _ _ _ _ _ _ _ _ hwrites => exact hwrites

theorem TokenEnds.writesOnly {i : Instr} {s t : State} (h : TokenEnds i s t) : writesOnly i s.dev t.dev := by
  cases h with
  | ignored | played | waits => exact writesOnly_refl i s.dev
  | malformed b hbad =>
    obtain ⟨c, _, _, _, _, _, heq⟩ := s.fluxBad_spec b
    rw [heq]
    exact writesOnly_malformed i b s.dev c hbad
  | finishes hi =>
    obtain ⟨_, _, _, _, _, heq, _⟩ := (s.call .playEnd).wrFinish_spec
    rw [heq, hi]
    rfl

/-- Settles O26: by the wire that carries the instruction. -/
theorem writerMatrixOfDeviceRegisters : Obligations.WriterMatrixOfDeviceRegisters := by
  intro i s t h
  rcases carrier_cases i with hp | hi | rfl | ⟨v, rfl⟩
  · exact (commandEnds i s t hp h).writesOnly
  · exact (tokenEnds i s t hi h).writesOnly
  · cases h; rfl
  · cases h; rfl

/-- Settles O27: a refusal, an answer and a start each emit one ack and one flush; a payload follows `OKAY` alone. -/
theorem oneLeadingAckPerPacket : Obligations.OneLeadingAckPerPacket := by
  intro i s t hp hstatus h
  cases commandEnds i s t hp h with
  | refused c calls a n hack hne => exact ⟨c, [], hack, fun _ => rfl, by simp [State.refused, State.called], rfl⟩
  | answered dev made calls a n c payload hack =>
    refine ⟨c, payload, ?_, ?_, rfl, rfl⟩
    · rcases hack with ⟨rfl, hmem⟩ | ⟨rfl, rfl, -⟩
      · exact hmem
      · simpa [fluxStatusOk, leadingAcks] using hstatus
    · rcases hack with ⟨rfl, -⟩ | ⟨-, -, hpayload⟩
      · exact fun hne => absurd rfl hne
      · exact fun _ => hpayload
  | started dev strm made calls a n m hack =>
    exact ⟨.okay, [], hack, fun _ => rfl, by simp [State.started, State.called], rfl⟩

theorem AckCode.toByte_injective : Function.Injective AckCode.toByte := by
  intro c d h
  cases c <;> cases d <;> first | rfl | cases h

/-- The ack that follows the trace is the one that was emitted. -/
theorem ack_eq_of_tx {tx : List TxItem} {c d : AckCode} {l l' : List TxItem}
    (h : tx ++ .byte c.toByte :: l = tx ++ .byte d.toByte :: l') : c = d :=
  AckCode.toByte_injective (TxItem.byte.inj (List.cons.inj (List.append_cancel_left h)).1)

/-- Settles O28: with another ack than `OKAY` the end can only be a refusal. -/
theorem refusalIsPrecise : Obligations.RefusalIsPrecise := by
  intro i s t c hp hi h hne htx
  cases commandEnds i s t hp h with
  | refused d calls a n hack hned hcalls =>
    obtain rfl : d = c := ack_eq_of_tx (l := [.flush]) htx
    exact ⟨rfl, rfl, rfl, rfl, rfl, rfl, calls, rfl, hcalls⟩
  | answered dev made calls a n d payload hack =>
    obtain ⟨rfl, -⟩ : d = .okay ∧ _ := hack.resolve_right fun hstatus => hi hstatus.1
    exact absurd (ack_eq_of_tx ((List.append_assoc ..).symm.trans htx)).symm hne
  | started dev strm made calls a n m hack => exact absurd (ack_eq_of_tx (l := [.flush]) htx).symm hne

/-! ### The parameter block (R152, R154) -/

/-- Only CMD_SET_PARAMS and CMD_RESET write the parameter block. -/
theorem writesOnly_delay (i : Instr) (d e : Device) (hset : ∀ j data, i ≠ .setParams j data) (hreset : i ≠ .reset)
    (h : writesOnly i d e) : e.delay = d.delay := by
  cases i with
  | setParams j data => exact absurd rfl (hset j data)
  | reset => exact absurd rfl hreset
  | _ =>
    simp only [writesOnly] at h
    rw [h]

theorem execAll_delay (between : List Instr) (s t : State)
    (hkeep : ∀ i ∈ between, i ≠ .reset ∧ ∀ j d, i ≠ .setParams j d) (h : execAll between s = .next t) :
    t.dev.delay = s.dev.delay := by
  induction between generalizing s with
  | nil => cases h; rfl
  | cons i rest ih =>
    obtain ⟨hreset, hset⟩ := hkeep i (by simp)
    cases hi : exec i s with
    | next u =>
      have hrest : execAll rest u = .next t := by simpa [execAll, hi] using h
      rw [ih u (fun j hj => hkeep j (by simp [hj])) hrest,
        writesOnly_delay i s.dev u.dev hset hreset (writerMatrixOfDeviceRegisters i s u hi)]
    | fault r => simp [execAll, hi] at h
    | refused r => simp [execAll, hi] at h

/-- Settles O32: the block is what CMD_SET_PARAMS wrote, by the writer matrix. -/
theorem parameterBlockRoundTrip : Obligations.ParameterBlockRoundTrip := by
  intro data between s t u hlen hset hkeep hbetween
  have hwritten : t.dev.delay = data := by
    rw [exec_setParams, if_pos ⟨rfl, hlen⟩] at hset
    cases hset
    rfl
  rw [exec_getParams, if_pos ⟨rfl, rfl⟩, execAll_delay between t u hkeep hbetween, hwritten]

end Sys2Proof.Machine
end

section
/-!
Single steps (R9, R13, R50, R130, R278): the engine's own turn, the service of `CLEAR_COMMS` before any other step, the
waiting states, and the turns of the environment.
-/

namespace Sys2Proof.Machine

/-! ### The engine's own turn -/

/-- The engine's turn is its own step, from the state that differs in the schedule alone. -/
theorem step_of_engineTurn (s s1 : State) (h : s.engineTurn = some s1) :
    step s = engineStep s1 ∧ s1.dev.clearPending = false ∧
      ∃ sc, s1 = { s with env := { s.env with sched := sc } } := by
  unfold State.engineTurn at h
  split_ifs at h with hc
  have hc : s.dev.clearPending = false := by simpa using hc
  split at h
  case h_1 hs => cases h; exact ⟨by rw [step, turn, hs], hc, s.env.sched, rfl⟩
  case h_2 sc hs => cases h; exact ⟨by rw [step, turn, hs], hc, sc, rfl⟩
  case h_3 => cases h

/-- In `IDLE` the engine gives the next byte to the framer (R121). -/
theorem engineStep_idle (b : Byte) (rest : List Byte) (s : State) (hc : s.dev.clearPending = false)
    (hm : s.frm.mode = .idle) (hrx : s.env.rxq = b :: rest) :
    engineStep s = frameByte b { s with env := { s.env with rxq := rest } } := by
  simp [engineStep, hc, hm, hrx]

/-- In `WR_STREAM` the engine gives the next byte to the decoder (R121). -/
theorem engineStep_wrStream (b : Byte) (rest : List Byte) (s : State) (hc : s.dev.clearPending = false)
    (hm : s.frm.mode = .wrStream) (hrx : s.env.rxq = b :: rest) :
    engineStep s = streamByte b { s with env := { s.env with rxq := rest } } := by
  simp [engineStep, hc, hm, hrx]

/-- A byte that completes no packet is held. -/
theorem frameByte_incomplete (b : Byte) (s : State) (h : (s.accumulate b).frm.complete = none) :
    frameByte b s = .next (s.accumulate b) := by
  simp only [frameByte, h]

theorem frameByte_complete (b : Byte) (P : List Byte) (s : State) (h : (s.accumulate b).frm.complete = some P) :
    frameByte b s = dispatch P ((s.accumulate b).setRxCnt 0) := by
  simp only [frameByte, h]

theorem streamByte_token (b : Byte) (i : Instr) (s : State) (h : decToken s.strm.dec b = some i) :
    streamByte b s = exec i (s.decodeByte b) := by
  simp only [streamByte, h]

theorem streamByte_inside (b : Byte) (s : State) (h : decToken s.strm.dec b = none) :
    streamByte b s = .next (s.decodeByte b) := by
  simp only [streamByte, h]

/-- Settles O9: the framer's byte, the decoder's byte, the control channel's write and the event. -/
theorem stepRunsDecodedInstruction : Obligations.StepRunsDecodedInstruction := by
  refine ⟨fun s s1 b rest P i hturn hm hrx hcomplete hdecode => ?packet,
    fun s s1 b rest i hturn hm hrx htoken => ?token, fun s v rest hs => ?control, fun s e rest hc hs =>
      step_of_event e rest s hc hs⟩
  case packet =>
    obtain ⟨hstep, hc, sc, rfl⟩ := step_of_engineTurn s s1 hturn
    rw [hstep, engineStep_idle b rest _ hc hm hrx]
    exact (frameByte_complete b P { s with env := { s.env with sched := sc, rxq := rest } } hcomplete).trans
      (dispatch_of_decoded P i _ hdecode)
  case token =>
    obtain ⟨hstep, hc, sc, rfl⟩ := step_of_engineTurn s s1 hturn
    rw [hstep, engineStep_wrStream b rest _ hc hm hrx]
    exact streamByte_token b i _ htoken
  case control => rw [step, turn, hs]

/-- Settles O12: each waiting state reaches the engine's last arm. -/
theorem waitingStatesKeepEverything : Obligations.WaitingStatesKeepEverything := by
  intro s hq hwait
  obtain ⟨hstep, hc⟩ := quiet_step s hq
  rw [hstep, engineStep, if_neg (by simp [hc])]
  rcases hwait with ⟨hrx, hsrc⟩ | hm | hm
  · rw [hrx]
    cases hm : s.frm.mode with
    | src => exact absurd hm hsrc
    | _ => rfl
  · rw [hm]
  · rw [hm]

/-! ### `CLEAR_COMMS` (R276, R278) -/

/-- Settles O13: the engine's own step begins with the service, and an event's turn waits for it. -/
theorem clearCommsHasPriority : Obligations.ClearCommsHasPriority := by
  intro s hc
  refine ⟨fun hs => ?_, fun rest hs => ?_, fun e rest hs => ?_⟩
  · rw [step, turn, hs]; exact if_pos hc
  · rw [step, turn, hs]; exact if_pos hc
  · rw [step, turn, hs]; exact if_pos hc

/-- The step of `ctrl_write(10000)` sets the latch. -/
theorem step_of_clearWrite (rest : List Turn) (s : State) (hs : s.env.sched = .ctrl 10000 :: rest) :
    step s = .next (State.setClearPending true { s with env := { s.env with sched := rest } }) := by
  rw [step, turn, hs]; rfl

/-- Settles O15: the write sets the latch, and the step after it is the service. -/
theorem clearWriteAndOneStepRecover : Obligations.ClearWriteAndOneStepRecover := by
  intro s hs
  have hservice := (clearCommsHasPriority
    (State.setClearPending true { s with env := { s.env with sched := [] } }) rfl).1 rfl
  rw [runSteps_of_step 1 s _ (step_of_clearWrite [] s hs), runSteps_of_step 0 _ _ hservice, State.clearComms_eq]
  exact ⟨_, rfl, rfl, rfl, rfl, rfl⟩

/-! ### The environment's turns and power-on reset (R10, R50) -/

/-- Settles O17: each turn is one arm of the schedule, and power-on reset writes every register. -/
theorem environmentTurns : Obligations.EnvironmentTurns := by
  intro s rest
  refine ⟨fun b hs => ?_, fun n hs => ?_, fun hs => ?_⟩
  · rw [step, turn, hs]
  · rw [step, turn, hs]
  · rw [step, turn, hs]; rfl

/-! ### Every step answers (R305) -/

theorem exec_next (i : Instr) (s : State) : ∃ t, exec i s = .next t := by
  cases i <;> exact ⟨_, rfl⟩

theorem dispatch_next (bytes : List Byte) (s : State) : ∃ t, dispatch bytes s = .next t := by
  unfold dispatch
  split
  case h_1 i _ => exact exec_next i s
  case h_2 => exact ⟨_, rfl⟩

theorem frameByte_next (b : Byte) (s : State) : ∃ t, frameByte b s = .next t := by
  unfold frameByte
  dsimp only
  split
  case h_1 P _ => exact dispatch_next P _
  case h_2 => exact ⟨_, rfl⟩

theorem streamByte_next (b : Byte) (s : State) : ∃ t, streamByte b s = .next t := by
  unfold streamByte
  split
  case h_1 i _ => exact exec_next i _
  case h_2 => exact ⟨_, rfl⟩

theorem engineStep_next (s : State) : ∃ t, engineStep s = .next t := by
  unfold engineStep
  split_ifs
  · exact ⟨_, rfl⟩
  · split
    case h_2 b rest _ _ => exact frameByte_next b _
    case h_3 b rest _ _ => exact streamByte_next b _
    all_goals exact ⟨_, rfl⟩

/-- Settles O18: by the arms of the schedule; no arm of `exec` is a fault or a refusal. -/
theorem everyStepAnswersNext : Obligations.EveryStepAnswersNext := by
  intro s
  unfold step turn
  split
  case h_1 => exact engineStep_next s
  case h_2 => exact engineStep_next _
  case h_5 v rest _ => exact exec_next (decodeCtrl v) _
  case h_6 => split_ifs <;> exact ⟨_, rfl⟩
  all_goals exact ⟨_, rfl⟩

end Sys2Proof.Machine
end

section
/-!
The framer over a whole packet (R122, R123): the bytes before the last are held, and the last one dispatches the packet.
After the service of `CLEAR_COMMS` the framer is at a packet boundary, whatever it was doing before.
-/

namespace Sys2Proof.Machine

/-- With `pre` held of a packet that declares its own length, the framer is complete when nothing is left to come. -/
theorem Framer.complete_of_held (f : Framer) (pre todo buf : List Byte) (hlen : 2 ≤ (pre ++ todo).length)
    (hdecl : ((pre ++ todo).getD 1 0).toNat = (pre ++ todo).length) (hcnt : f.rxCnt = pre.length)
    (hbuf : f.cbuf = pre ++ buf) : f.complete = if todo = [] then some pre else none := by
  unfold Framer.complete
  rw [hcnt]
  by_cases hshort : pre.length < 2
  · have hne : todo ≠ [] := by rintro rfl; simp only [List.append_nil] at hlen; omega
    simp [hshort, hne]
  · have hbyte : f.cbuf.getD 1 0 = (pre ++ todo).getD 1 0 := by
      rw [hbuf, List.getD_append _ _ _ _ (by omega), List.getD_append _ _ _ _ (by omega)]
    have hdone : pre.length = (pre ++ todo).length ↔ todo = [] := by simp
    simp only [if_neg hshort, hbyte, hdecl, if_neg (Nat.not_lt.mpr hlen), hdone]
    split_ifs with hnil
    · simp [hnil, hbuf]
    · rfl

/-- Writing the byte after those held. -/
theorem set_after_held (pre buf : List Byte) (b : Byte) (h : pre.length < buf.length) :
    (pre ++ buf.drop pre.length).set pre.length b = (pre ++ [b]) ++ buf.drop (pre ++ [b]).length := by
  rw [List.set_append_right _ _ le_rfl, Nat.sub_self, List.drop_eq_getElem_cons h, List.set_cons_zero,
    List.append_assoc, List.length_append]
  rfl

/-- The rest of a packet, of which `pre` is held already. -/
theorem runSteps_packet (todo pre rest buf : List Byte) (s : State) (hne : todo ≠ [])
    (hlen : 2 ≤ (pre ++ todo).length) (hdecl : ((pre ++ todo).getD 1 0).toNat = (pre ++ todo).length)
    (hsize : buf.length = 255) (hq : s.quiet = true) (hm : s.frm.mode = .idle) (hcnt : s.frm.rxCnt = pre.length)
    (hbuf : s.frm.cbuf = pre ++ buf.drop pre.length) (hrx : s.env.rxq = todo ++ rest) :
    runSteps todo.length s = dispatch (pre ++ todo)
      { s with
        frm := { mode := .idle, rxCnt := 0, cbuf := pre ++ todo ++ buf.drop (pre ++ todo).length }
        env := { s.env with rxq := rest } } := by
  induction todo generalizing pre s with
  | nil => exact absurd rfl hne
  | cons b todo ih =>
    have hmax := ((pre ++ b :: todo).getD 1 0).isLt
    have hroom : pre.length < buf.length := by
      simp only [List.length_append, List.length_cons] at hdecl
      omega
    have hheld : s.frm.cbuf.set pre.length b = (pre ++ [b]) ++ buf.drop (pre ++ [b]).length := by
      rw [hbuf, set_after_held pre buf b hroom]
    have hjoin : pre ++ b :: todo = pre ++ [b] ++ todo := by simp
    rw [hjoin] at hlen hdecl ⊢
    have hcomplete := Framer.complete_of_held
      (State.accumulate b { s with env := { s.env with rxq := todo ++ rest } }).frm (pre ++ [b]) todo _ hlen hdecl
      (by simp [hcnt]) (by simp only [State.accumulate_frm, hcnt]; exact hheld)
    have hstep := step_of_idle_byte b (todo ++ rest) s hq hm hrx
    by_cases hlast : todo = []
    · subst hlast
      rw [if_pos rfl] at hcomplete
      obtain ⟨t, ht⟩ := dispatch_next (pre ++ [b])
        ((State.accumulate b { s with env := { s.env with rxq := [] ++ rest } }).setRxCnt 0)
      rw [frameByte_complete b _ _ hcomplete, ht] at hstep
      rw [List.length_singleton, runSteps_of_step 0 s t hstep, runSteps_zero, List.append_nil, ← ht]
      simp only [State.accumulate, State.setRxCnt, hm, hcnt, hheld, List.nil_append]
    · rw [if_neg hlast] at hcomplete
      rw [frameByte_incomplete b _ hcomplete] at hstep
      rw [List.length_cons, runSteps_of_step _ s _ hstep]
      exact ih (pre ++ [b]) _ hlast hlen hdecl hq hm (by simp [hcnt])
        (by simp only [State.accumulate_frm, hcnt]; exact hheld) rfl

/-- Settles O10: the whole packet is what is left of it when nothing is held. -/
theorem packetBytesRunDispatch : Obligations.PacketBytesRunDispatch := by
  intro P rest s hlen hdecl hq hm hcnt hsize hrx
  have hne : P ≠ [] := by rintro rfl; simp at hlen
  have hrun := runSteps_packet P [] rest s.frm.cbuf s hne hlen hdecl hsize hq hm hcnt rfl hrx
  rw [hrun, ← hm, ← hcnt]
  rfl

/-! ### After `CLEAR_COMMS` -/

/-- The host's bytes are appended to `RXQ`, one turn each. -/
theorem runSteps_hostBytes (bytes : List Byte) (s : State) (hs : s.env.sched = bytes.map .hostByte) :
    runSteps bytes.length s = .next { s with env := { s.env with sched := [], rxq := s.env.rxq ++ bytes } } := by
  induction bytes generalizing s with
  | nil =>
    rw [List.map_nil] at hs
    rw [List.append_nil, ← hs]
    rfl
  | cons b rest ih =>
    have hstep := (environmentTurns s (rest.map .hostByte)).1 b hs
    rw [List.length_cons, runSteps_of_step _ s _ hstep, ih _ rfl]
    simp

/-- The write and the service: two steps, after which the schedule goes on. -/
theorem runSteps_clear (rest : List Turn) (s : State) (hs : s.env.sched = .ctrl 10000 :: .engine :: rest) :
    runSteps 2 s = .next (State.clearComms
      (State.setClearPending true { s with env := { s.env with sched := rest } })) := by
  have hservice := (clearCommsHasPriority
    (State.setClearPending true { s with env := { s.env with sched := .engine :: rest } }) rfl).2.1 rest rfl
  rw [runSteps_of_step 1 s _ (step_of_clearWrite _ s hs), runSteps_of_step 0 _ _ hservice]
  rfl

/-- The write, the service and the host's bytes leave the machine at a packet boundary with those bytes to come. -/
theorem runSteps_clear_bytes (bytes : List Byte) (s : State)
    (hs : s.env.sched = .ctrl 10000 :: .engine :: bytes.map .hostByte) :
    ∃ t, runSteps (2 + bytes.length) s = .next t ∧ t.quiet = true ∧ t.frm = { s.frm with mode := .idle, rxCnt := 0 } ∧
      t.env.rxq = bytes ∧ t.env.txPending = [] ∧ t.env.tx = s.env.tx ++ [.reset] ∧
      t.dev = { s.dev.withDefaults s.cfg with clearPending := false } := by
  have hclear := runSteps_add 2 bytes.length s _ (runSteps_clear _ s hs)
  rw [State.clearComms_eq, runSteps_hostBytes bytes _ rfl] at hclear
  exact ⟨_, hclear, rfl, rfl, rfl, rfl, rfl, rfl⟩

/-- Settles O16: from the boundary that the service leaves, the packet's bytes dispatch it. -/
theorem packetAfterClearCommsDispatches : Obligations.PacketAfterClearCommsDispatches := by
  intro P s hlen hdecl hsize hs
  obtain ⟨t, hrun, hq, hfrm, hrx, hpending, htx, hdev⟩ := runSteps_clear_bytes P s hs
  have hdispatch := packetBytesRunDispatch P [] t hlen hdecl hq (by rw [hfrm]) (by rw [hfrm])
    (by rw [hfrm]; exact hsize) (by rw [hrx, List.append_nil])
  exact ⟨_, (runSteps_add _ P.length s t hrun).trans hdispatch, by rw [hfrm], by rw [hfrm], rfl, hpending, htx, hdev⟩

end Sys2Proof.Machine
end

section
/-!
The events of a read stream (R228 to R233): an interval and an index pulse that leave the stream open, and its ends. The
two open cases are `State.captureEdge` and `State.captureIndex`; every end is `State.rdEnd`, whose kept fields have a
`simp` lemma each.
-/

namespace Sys2Proof.Machine

/-! ### What `rd_end()` keeps -/

section
variable (st : AckCode) (s : State)

@[simp] theorem State.rdEnd_cfg : (s.rdEnd st).cfg = s.cfg := by
  obtain ⟨_, _, _, _, _, h, _⟩ := s.rdEnd_spec st
  rw [h]

@[simp] theorem State.rdEnd_frm : (s.rdEnd st).frm = { s.frm with mode := .idle } := by
  obtain ⟨_, _, _, _, _, h, _⟩ := s.rdEnd_spec st
  rw [h]

/-- Of the environment, the terminator, the flush, the call that stops the capture, and what the sample uses. -/
theorem State.rdEnd_env : ∃ (a : Answers) (n : Nat), (s.rdEnd st).env = { s.env with
    tx := s.env.tx ++ [.byte 0x00, .flush], txPending := s.env.txPending ++ [0x00]
    act := s.env.act ++ [.captureStop], answers := a, draws := n } := by
  obtain ⟨_, _, a, n, _, h, _⟩ := s.rdEnd_spec st
  exact ⟨a, n, by rw [h]⟩

@[simp] theorem State.rdEnd_tx : (s.rdEnd st).env.tx = s.env.tx ++ [.byte 0x00, .flush] := by
  obtain ⟨_, _, h⟩ := s.rdEnd_env st
  rw [h]

@[simp] theorem State.rdEnd_txPending : (s.rdEnd st).env.txPending = s.env.txPending ++ [0x00] := by
  obtain ⟨_, _, h⟩ := s.rdEnd_env st
  rw [h]

@[simp] theorem State.rdEnd_act : (s.rdEnd st).env.act = s.env.act ++ [.captureStop] := by
  obtain ⟨_, _, h⟩ := s.rdEnd_env st
  rw [h]

@[simp] theorem State.rdEnd_rxq : (s.rdEnd st).env.rxq = s.env.rxq := by
  obtain ⟨_, _, h⟩ := s.rdEnd_env st
  rw [h]

@[simp] theorem State.rdEnd_sched : (s.rdEnd st).env.sched = s.env.sched := by
  obtain ⟨_, _, h⟩ := s.rdEnd_env st
  rw [h]

/-- An end in error writes the status alone. -/
theorem State.rdEnd_dev_error (h : st ≠ .okay) : (s.rdEnd st).dev = { s.dev with fluxStatus := st } := by
  obtain ⟨mn, mx, _, _, _, heq, hkept⟩ := s.rdEnd_spec st
  obtain ⟨rfl, rfl⟩ := hkept h
  simp only [heq, if_neg h]

end

/-- A completed read samples what an earlier state `s` of the stream would, if only the index times and the count of
bytes have changed since. -/
theorem State.rdEnd_okay_dev_of (s t : State) (times : List U32) (hdev : t.dev = { s.dev with idxTime := times })
    (ha : t.env.answers = s.env.answers) (hd : t.env.draws = s.env.draws) :
    (t.rdEnd .okay).dev = { (s.bwSample (t.strm.xferBytes + 1) s.drawUsecs.1).dev with
      idxTime := times, fluxStatus := .okay, capValid := true } := by
  rw [State.rdEnd_okay_dev, State.drawUsecs_congr s t (by rw [ha]) hd,
    State.bwSample_dev_of _ _ t s (by rw [hdev]) (by rw [hdev]), State.bwSample_dev_of _ _ s s rfl rfl, hdev]

/-! ### Events that leave the stream open (R228, R229) -/

/-- An interval is encoded and counted, and moves the cursor. -/
def State.captureEdge (n : Nat) (s : State) : State :=
  { s with
    strm := { s.strm with
      xferBytes := s.strm.xferBytes + BitVec.ofNat 32 (enc n).length
      rdCum := s.strm.rdCum + BitVec.ofNat 32 n }
    env := { s.env with
      tx := s.env.tx ++ (enc n).map .byte
      txPending := s.env.txPending ++ enc n } }

/-- An index pulse is marked and counted, and its time stored. -/
def State.captureIndex (n : Nat) (s : State) : State :=
  { s with
    dev := { s.dev with
      idxTime := s.dev.idxTime.set s.strm.rdSeen.toNat (s.strm.rdCum + BitVec.ofNat 32 n) }
    strm := { s.strm with xferBytes := s.strm.xferBytes + 6, rdSeen := s.strm.rdSeen + 1 }
    env := { s.env with
      tx := s.env.tx ++ (encIndex n).map .byte
      txPending := s.env.txPending ++ encIndex n } }

section
variable (n : Nat) (s : State) (hm : s.frm.mode = .rdStream)
include hm

theorem State.onEvent_edge (h1 : 1 ≤ n) (hmax : n ≤ tickMax) : s.onEvent (.edge n) = s.captureEdge n := by
  simp only [State.onEvent, hm]
  exact if_neg (by omega)

/-- An index pulse is marked and stored, and the last one asked for ends the stream after that. -/
theorem State.onEvent_index (hmax : n ≤ tickMax) : s.onEvent (.index n) =
    if s.strm.rdSeen + 1 = s.strm.rdTarget then (s.captureIndex n).rdEnd .okay else s.captureIndex n := by
  simp only [State.onEvent, hm]
  exact if_neg (Nat.not_lt.mpr hmax)

theorem State.onEvent_edge_bad (h : n = 0 ∨ n > tickMax) : s.onEvent (.edge n) = s.rdEnd .fluxOverflow := by
  simp only [State.onEvent, hm]
  exact if_pos h

theorem State.onEvent_index_bad (h : n > tickMax) : s.onEvent (.index n) = s.rdEnd .fluxOverflow := by
  simp only [State.onEvent, hm]
  exact if_pos h

omit n in
theorem State.onEvent_overrun : s.onEvent .overrun = s.rdEnd .fluxOverflow := by
  simp only [State.onEvent, hm]

omit n in
theorem State.onEvent_readNoIndex : s.onEvent .noIndex = s.rdEnd .noIndex := by
  simp only [State.onEvent, hm]

end

/-- Settles O52: the two events that leave the stream open. -/
theorem readStreamEvents : Obligations.ReadStreamEvents := by
  intro n s hm hmax
  refine ⟨fun h1 => s.onEvent_edge n hm h1 hmax, fun hmore => ?_⟩
  rw [s.onEvent_index n hm hmax, if_neg hmore]
  rfl

/-- Settles O53: every error is one `rd_end` of a status that is not `OKAY`; the last pulse is stored and ends it. -/
theorem readStreamEnds : Obligations.ReadStreamEnds := by
  refine ⟨fun e st s hm hcause => ?error, fun d s hm hmax hlast => ?completed⟩
  case error =>
    obtain ⟨hend, hst⟩ : s.onEvent e = s.rdEnd st ∧ st ≠ .okay := by
      rcases hcause with ⟨rfl, rfl⟩ | ⟨rfl, rfl⟩ | ⟨rfl | ⟨n, hn, rfl | rfl⟩, rfl⟩
      · exact ⟨s.onEvent_overrun hm, nofun⟩
      · exact ⟨s.onEvent_readNoIndex hm, nofun⟩
      · exact ⟨s.onEvent_edge_bad 0 hm (.inl rfl), nofun⟩
      · exact ⟨s.onEvent_edge_bad n hm (.inr hn), nofun⟩
      · exact ⟨s.onEvent_index_bad n hm hn, nofun⟩
    rw [hend]
    exact ⟨by simp, s.rdEnd_dev_error st hst, by simp, by simp, by simp, by simp, by simp⟩
  case completed =>
    rw [s.onEvent_index d hm hmax, if_pos hlast]
    refine ⟨State.rdEnd_cfg .., ?_, State.rdEnd_frm .., ?_, ?_, State.rdEnd_act .., State.rdEnd_rxq ..⟩
    · rw [State.rdEnd_okay_dev_of s (s.captureIndex d) _ rfl rfl rfl]
      have hbytes : (s.captureIndex d).strm.xferBytes + 1 = s.strm.xferBytes + 7 := by
        simp only [State.captureIndex, BitVec.add_assoc]
        rfl
      rw [hbytes]
    · rw [State.rdEnd_tx]; simp [State.captureIndex]
    · rw [State.rdEnd_txPending]; simp [State.captureIndex]

/-! ### Whole captures -/

/-- The state once a turn is taken, `sc` being the turns to come. -/
def State.withTurns (sc : List Turn) (s : State) : State := { s with env := { s.env with sched := sc } }

/-- The state after a read stream has captured some elements and stays open, `rest` being the turns to come. -/
def State.captured (items : List FluxItem) (rest : List Turn) (s : State) : State :=
  { s with
    dev := { s.dev with idxTime := timesAfter s.strm.rdSeen.toNat s.strm.rdCum items s.dev.idxTime }
    strm := { s.strm with
      rdSeen := s.strm.rdSeen + BitVec.ofNat 8 (items.countP FluxItem.isIndex)
      rdCum := s.strm.rdCum + BitVec.ofNat 32 (items.map FluxItem.ticks).sum
      xferBytes := s.strm.xferBytes + BitVec.ofNat 32 (fluxBytes items).length }
    env := { s.env with
      tx := s.env.tx ++ (fluxBytes items).map .byte
      txPending := s.env.txPending ++ fluxBytes items
      sched := rest } }

theorem State.captured_nil (rest : List Turn) (s : State) (hs : s.env.sched = rest) : s.captured [] rest = s := by
  subst hs
  simp [State.captured, timesAfter, fluxBytes]

theorem fluxBytes_cons (x : FluxItem) (items : List FluxItem) : fluxBytes (x :: items) = x.bytes ++ fluxBytes items :=
  rfl

theorem State.captured_interval (t : Nat) (items : List FluxItem) (rest sc : List Turn) (s : State) :
    State.captured items rest ((s.withTurns sc).captureEdge t) =
      s.captured (.interval t :: items) rest := by
  simp [State.captured, State.captureEdge, State.withTurns, fluxBytes_cons, timesAfter, FluxItem.bytes, FluxItem.ticks,
    FluxItem.isIndex, BitVec.ofNat_add, BitVec.add_assoc]

theorem State.captured_index (d : Nat) (items : List FluxItem) (rest sc : List Turn) (s : State)
    (hseen : (s.strm.rdSeen + 1).toNat = s.strm.rdSeen.toNat + 1) :
    State.captured items rest ((s.withTurns sc).captureIndex d) =
      s.captured (.index d :: items) rest := by
  have hcount : BitVec.ofNat 8 ((FluxItem.index d :: items).countP FluxItem.isIndex) =
      1 + BitVec.ofNat 8 (items.countP FluxItem.isIndex) := by
    rw [List.countP_cons_of_pos rfl, Nat.add_comm, BitVec.ofNat_add]
    rfl
  have hbytes : BitVec.ofNat 32 (fluxBytes (.index d :: items)).length =
      6 + BitVec.ofNat 32 (fluxBytes items).length := by
    rw [fluxBytes_cons, List.length_append, BitVec.ofNat_add]
    rfl
  simp only [State.captured, State.captureIndex, State.withTurns, hseen, hcount, hbytes, BitVec.add_assoc]
  simp [timesAfter, fluxBytes_cons, FluxItem.bytes, FluxItem.ticks]

/-- Fewer pulses than are still asked for leave the stream open. -/
theorem runSteps_captured (items : List FluxItem) (rest : List Turn) (s : State) (hm : s.frm.mode = .rdStream)
    (hc : s.dev.clearPending = false) (hok : ∀ x ∈ items, x.ok = true)
    (hopen : s.strm.rdSeen.toNat + items.countP FluxItem.isIndex < s.strm.rdTarget.toNat)
    (hs : s.env.sched = items.map (fun x => .event x.event) ++ rest) :
    runSteps items.length s = .next (s.captured items rest) := by
  induction items generalizing s with
  | nil => rw [s.captured_nil rest hs]; rfl
  | cons x items ih =>
    obtain ⟨sc, hsc⟩ : ∃ sc, sc = items.map (fun x => Turn.event x.event) ++ rest := ⟨_, rfl⟩
    have hstep : step s = .next ((s.withTurns sc).onEvent x.event) :=
      step_of_event x.event sc s hc (by rw [hs, hsc]; rfl)
    have hrest : ∀ y ∈ items, y.ok = true := fun y hy => hok y (by simp [hy])
    rw [List.length_cons, runSteps_of_step _ s _ hstep]
    cases x with
    | interval t =>
      obtain ⟨h1, hmax⟩ : 1 ≤ t ∧ t ≤ tickMax := by simpa [FluxItem.ok] using hok _ (List.mem_cons_self ..)
      rw [List.countP_cons_of_neg (by simp [FluxItem.isIndex])] at hopen
      rw [FluxItem.event, (s.withTurns sc).onEvent_edge t hm h1 hmax,
        ih ((s.withTurns sc).captureEdge t) hm hc hrest hopen hsc, State.captured_interval]
    | index d =>
      have hmax : d ≤ tickMax := by simpa [FluxItem.ok] using hok _ (List.mem_cons_self ..)
      rw [List.countP_cons_of_pos rfl] at hopen
      have htarget := s.strm.rdTarget.isLt
      have hseen : (s.strm.rdSeen + 1).toNat = s.strm.rdSeen.toNat + 1 := by bv_omega
      have hmore : (s.withTurns sc).strm.rdSeen + 1 ≠ (s.withTurns sc).strm.rdTarget := by
        simp only [State.withTurns]
        bv_omega
      have hopen' : (s.strm.rdSeen + 1).toNat + items.countP FluxItem.isIndex < s.strm.rdTarget.toNat := by omega
      rw [FluxItem.event, (s.withTurns sc).onEvent_index d hm hmax, if_neg hmore,
        ih ((s.withTurns sc).captureIndex d) hm hc hrest hopen' hsc, s.captured_index d items rest sc hseen]

/-- The last pulse's time stands at its place, after those of the pulses before it. -/
theorem timesAfter_append_index (items : List FluxItem) (d k : Nat) (cum : U32) (table : List U32) :
    timesAfter k cum (items ++ [.index d]) table = (timesAfter k cum items table).set
      (k + items.countP FluxItem.isIndex)
      (cum + BitVec.ofNat 32 (items.map FluxItem.ticks).sum + BitVec.ofNat 32 d) := by
  induction items generalizing k cum table with
  | nil => simp [timesAfter]
  | cons x items ih =>
    cases x with
    | interval t => simp [timesAfter, ih, FluxItem.isIndex, FluxItem.ticks, BitVec.ofNat_add, BitVec.add_assoc]
    | index e =>
      rw [List.cons_append, timesAfter, ih, List.countP_cons_of_pos rfl]
      simp [timesAfter, FluxItem.ticks, Nat.add_comm, Nat.add_left_comm]

/-- The last pulse asked for, after the elements captured before it, ends the stream. -/
theorem runSteps_completed (items : List FluxItem) (d : Nat) (rest : List Turn) (s : State)
    (hm : s.frm.mode = .rdStream) (hc : s.dev.clearPending = false) (hok : ∀ x ∈ items, x.ok = true) (hd : d ≤ tickMax)
    (hlast : s.strm.rdSeen.toNat + items.countP FluxItem.isIndex + 1 = s.strm.rdTarget.toNat)
    (hs : s.env.sched = (items ++ [FluxItem.index d]).map (fun x => .event x.event) ++ rest) :
    runSteps (items.length + 1) s = .next (((s.captured items rest).captureIndex d).rdEnd .okay) := by
  rw [List.map_append, List.append_assoc] at hs
  have hrun := runSteps_captured items (.event (.index d) :: rest) s hm hc hok (by omega) hs
  have hstep := step_of_event (.index d) rest (s.captured items (.event (.index d) :: rest)) hc rfl
  have hcompletes : (s.captured items rest).strm.rdSeen + 1 = (s.captured items rest).strm.rdTarget := by
    have htarget := s.strm.rdTarget.isLt
    simp only [State.captured]
    bv_omega
  rw [runSteps_add _ 1 s _ hrun, runSteps_of_step 0 _ _ hstep, runSteps_zero]
  exact congrArg Host.Outcome.next ((State.onEvent_index d (s.captured items rest) hm hd).trans (if_pos hcompletes))

/-- Settles O54: the elements before the last pulse leave the stream open, that pulse completes it, and what was
emitted is an encoded stream with its terminator. -/
theorem capturedStreamDecodes : Obligations.CapturedStreamDecodes := by
  refine ⟨runSteps_captured, fun items d stream rest s hm hc hok hd hlast hs hstream => ⟨?decodes, ?completes⟩⟩
  case decodes =>
    rw [hstream]
    refine fluxStreamRoundTrip _ fun x hx => ?_
    rcases List.mem_append.mp hx with hx | hx
    · exact hok x hx
    · rw [List.mem_singleton.mp hx]
      exact decide_eq_true hd
  case completes =>
    refine ⟨_, runSteps_completed items d rest s hm hc hok hd hlast hs, State.rdEnd_cfg .., State.rdEnd_frm .., ?device,
      ?tx, ?txPending, State.rdEnd_act .., State.rdEnd_rxq .., State.rdEnd_sched ..⟩
    case device =>
      have hseen : (s.captured items rest).strm.rdSeen.toNat = s.strm.rdSeen.toNat + items.countP FluxItem.isIndex := by
        have htarget := s.strm.rdTarget.isLt
        simp only [State.captured]
        bv_omega
      have hbytes : ((s.captured items rest).captureIndex d).strm.xferBytes + 1 =
          s.strm.xferBytes + BitVec.ofNat 32 stream.length := by
        rw [hstream]
        simp [State.captured, State.captureIndex, fluxBytes, FluxItem.bytes, encIndex, n28, BitVec.ofNat_add,
          BitVec.add_assoc]
      rw [State.rdEnd_okay_dev_of s ((s.captured items rest).captureIndex d) _ rfl rfl rfl, hbytes,
        timesAfter_append_index, ← hseen]
      rfl
    case tx =>
      rw [State.rdEnd_tx, hstream]
      simp [State.captured, State.captureIndex, fluxBytes, FluxItem.bytes]
    case txPending =>
      rw [State.rdEnd_txPending, hstream]
      simp [State.captured, State.captureIndex, fluxBytes, FluxItem.bytes]

end Sys2Proof.Machine
end

section
/-!
Whole streams of bytes (R238, R240, R244, R261, R266): a replay, the drain of an ended write stream, and the source and
sink transfers. In each a byte that is not the last one leaves the same stream with one byte less to go.
-/

namespace Sys2Proof.Machine

/-- The state once bytes are taken, `q` being what is left in `RXQ`. -/
def State.withRxq (q : List Byte) (s : State) : State := { s with env := { s.env with rxq := q } }

section
variable (q : List Byte) (s : State)

@[simp] theorem State.withRxq_cfg : (s.withRxq q).cfg = s.cfg := rfl
@[simp] theorem State.withRxq_dev : (s.withRxq q).dev = s.dev := rfl
@[simp] theorem State.withRxq_frm : (s.withRxq q).frm = s.frm := rfl
@[simp] theorem State.withRxq_strm : (s.withRxq q).strm = s.strm := rfl
@[simp] theorem State.withRxq_env : (s.withRxq q).env = { s.env with rxq := q } := rfl

/-- Taking the bytes that are in `RXQ` already changes nothing. -/
theorem State.withRxq_self (h : s.env.rxq = q) : s.withRxq q = s := by
  subst h
  rfl

end

/-! ### Replays (R238, R240) -/

/-- The state after a write stream has consumed `n` bytes up to `rest`, made `calls`, and reached phase `q`. -/
def State.playedTo (n : Nat) (q : DecPhase) (rest : List Byte) (calls : List ActCall) (s : State) : State :=
  { s with
    strm := { s.strm with xferBytes := s.strm.xferBytes + BitVec.ofNat 32 n, dec := q }
    env := { s.env with rxq := rest, act := s.env.act ++ calls } }

theorem State.playedTo_playedTo (n m : Nat) (p q : DecPhase) (l rest : List Byte) (calls more : List ActCall)
    (s : State) : (s.playedTo n p l calls).playedTo m q rest more = s.playedTo (n + m) q rest (calls ++ more) := by
  simp [State.playedTo, BitVec.ofNat_add, BitVec.add_assoc]

/-- With only engine turns to come, a step in `WR_STREAM` gives the next byte of `RXQ` to the decoder (R121). -/
theorem step_of_stream_byte (b : Byte) (rest : List Byte) (s : State) (hq : s.quiet = true)
    (hm : s.frm.mode = .wrStream) (hrx : s.env.rxq = b :: rest) :
    step s = streamByte b (s.withRxq rest) := by
  obtain ⟨hstep, hc⟩ := quiet_step s hq
  rw [hstep, engineStep_wrStream b rest s hc hm hrx]
  rfl

/-- A byte inside a token is counted and moves the decoder. -/
theorem step_inside_token (b : Byte) (rest : List Byte) (r : DecPhase) (s : State) (hq : s.quiet = true)
    (hm : s.frm.mode = .wrStream) (hrx : s.env.rxq = b :: rest) (hp : s.strm.dec.wf = true)
    (hdec : decStep s.strm.dec b = (r, .none)) : step s = .next (s.playedTo 1 r rest []) := by
  have hnone : decToken s.strm.dec b = none := by simpa [YieldMeans, hdec] using (stepMeans _ b s hp).2
  rw [step_of_stream_byte b rest s hq hm hrx, streamByte_inside b (s.withRxq rest) hnone]
  simp [State.decodeByte, State.countBytes, State.playedTo, State.withRxq, hdec]

/-- The last byte of a token of an interval or a marker makes its calls. -/
theorem step_ends_token (x : FluxItem) (b : Byte) (rest : List Byte) (q : DecPhase) (s : State) (hq : s.quiet = true)
    (hm : s.frm.mode = .wrStream) (hrx : s.env.rxq = b :: rest) (hp : s.strm.dec.wf = true)
    (hdec : decStep s.strm.dec b = (q, x.yield)) : step s = .next (s.playedTo 1 q rest x.calls) := by
  have hmeans := (stepMeans _ b ((s.withRxq rest).decodeByte b) hp).2
  rw [hdec] at hmeans
  have hdecoded : (decStep s.strm.dec b).1 = q := by rw [hdec]
  rw [step_of_stream_byte b rest s hq hm hrx]
  cases x with
  | interval t =>
    obtain ⟨-, -, i, htoken, hexec⟩ := hmeans
    rw [streamByte_token b i (s.withRxq rest) htoken, hexec]
    simp [State.decodeByte, State.countBytes, State.playedTo, State.withRxq, State.call, hdecoded, FluxItem.calls]
  | index d =>
    obtain ⟨-, i, htoken, hexec⟩ := hmeans
    rw [streamByte_token b i (s.withRxq rest) htoken, hexec]
    simp [State.decodeByte, State.countBytes, State.playedTo, State.withRxq, hdecoded, FluxItem.calls]

/-- The bytes that the decoder reads as an element play that element. -/
theorem runSteps_reads {p q : DecPhase} {bytes : List Byte} {x : FluxItem} (hreads : Reads p bytes q x.yield)
    (rest : List Byte) (s : State) (hp : p.wf = true) (hdec : s.strm.dec = p) (hq : s.quiet = true)
    (hm : s.frm.mode = .wrStream) (hrx : s.env.rxq = bytes ++ rest) :
    runSteps bytes.length s = .next (s.playedTo bytes.length q rest x.calls) := by
  generalize hy : x.yield = y at hreads
  induction hreads generalizing s with
  | last h =>
    subst hy hdec
    exact runSteps_of_step 0 s _ (step_ends_token x _ rest _ s hq hm hrx hp h)
  | @more p r q b bytes y h _ ih =>
    subst hdec
    have hwf : r.wf = true := by simpa [h] using decStep_wf _ b hp
    have hstep := step_inside_token b (bytes ++ rest) r s hq hm hrx hp h
    rw [List.length_cons, runSteps_of_step _ s _ hstep, ih (s.playedTo 1 r (bytes ++ rest) []) hwf rfl hq hm rfl hy,
      State.playedTo_playedTo, Nat.add_comm 1, List.nil_append]

/-- The elements at the head of `RXQ` are played in order. -/
theorem runSteps_fluxBytes (items : List FluxItem) (rest : List Byte) (s : State) (hm : s.frm.mode = .wrStream)
    (hq : s.quiet = true) (hdec : s.strm.dec = .tok) (hok : ∀ x ∈ items, x.ok = true)
    (hrx : s.env.rxq = fluxBytes items ++ rest) : runSteps (fluxBytes items).length s =
      .next (s.playedTo (fluxBytes items).length .tok rest (items.flatMap FluxItem.calls)) := by
  induction items generalizing s with
  | nil =>
    rw [fluxBytes, List.flatMap_nil, List.nil_append] at hrx
    simp [fluxBytes, State.playedTo, ← hdec, ← hrx]
  | cons x items ih =>
    rw [fluxBytes_cons, List.append_assoc] at hrx
    have hx := runSteps_reads (x.reads (hok x (by simp))) _ s rfl hdec hq hm hrx
    rw [fluxBytes_cons, List.length_append, runSteps_add _ _ s _ hx,
      ih (s.playedTo x.bytes.length .tok (fluxBytes items ++ rest) x.calls) hm hq rfl
        (fun y hy => hok y (by simp [hy])) rfl, State.playedTo_playedTo]
    rfl

/-- Settles O55: the decoder is at a token boundary before and after, so its phase is what it was. -/
theorem writtenStreamPlays : Obligations.WrittenStreamPlays := by
  intro items rest s hm hq hdec hok hrx
  rw [runSteps_fluxBytes items rest s hm hq hdec hok hrx, State.playedTo, ← hdec]

/-! ### The drain (R244) -/

/-- With only engine turns to come, a step in `WR_DRAIN` discards the next byte of `RXQ` (R121). -/
theorem step_of_drain_byte (b : Byte) (rest : List Byte) (s : State) (hq : s.quiet = true)
    (hm : s.frm.mode = .wrDrain) (hrx : s.env.rxq = b :: rest) :
    step s = .next ((s.withRxq rest).drainByte b) := by
  obtain ⟨hstep, hc⟩ := quiet_step s hq
  simp [hstep, engineStep, hc, hm, hrx, State.withRxq]

theorem State.drainByte_of_ne (b : Byte) (s : State) (hb : b ≠ 0) : s.drainByte b = s.countBytes 1 := if_neg hb

theorem State.drainByte_zero (s : State) : s.drainByte 0 = (s.countBytes 1).wrFinish := rfl

/-- The bytes before the terminator are counted, and nothing else is done with them. -/
theorem runSteps_drain (bytes rest : List Byte) (s : State) (hm : s.frm.mode = .wrDrain) (hq : s.quiet = true)
    (hne : (0 : Byte) ∉ bytes) (hrx : s.env.rxq = bytes ++ rest) :
    runSteps bytes.length s = .next ((s.withRxq rest).countBytes bytes.length) := by
  induction bytes generalizing s with
  | nil =>
    rw [List.nil_append] at hrx
    rw [s.withRxq_self rest hrx]
    simp [State.countBytes]
  | cons b bytes ih =>
    obtain ⟨hb, hrest⟩ : ¬ 0 = b ∧ (0 : Byte) ∉ bytes := by simpa [List.mem_cons, not_or] using hne
    have hstep := step_of_drain_byte b (bytes ++ rest) s hq hm hrx
    rw [State.drainByte_of_ne b _ (Ne.symm hb)] at hstep
    rw [List.length_cons, runSteps_of_step _ s _ hstep, ih ((s.withRxq (bytes ++ rest)).countBytes 1) hm hq hrest rfl]
    simp [State.withRxq, State.countBytes, BitVec.ofNat_add, BitVec.add_assoc, BitVec.add_comm 1#32]

/-- Settles O58: the bytes before the terminator, and the end of the stream at it. -/
theorem drainEndsAtFirstZero : Obligations.DrainEndsAtFirstZero := by
  intro bytes rest s hm hq hne hrx
  have hend := step_of_drain_byte 0 rest ((s.withRxq (0 :: rest)).countBytes bytes.length) hq hm rfl
  rw [State.drainByte_zero] at hend
  have hrun := runSteps_add _ 1 s _ (runSteps_drain bytes (0 :: rest) s hm hq hne hrx)
  rw [runSteps_of_step 0 _ _ hend, runSteps_zero] at hrun
  generalize hr : State.countBytes 1 _ = r at hrun
  have hbytes : r.strm.xferBytes = s.strm.xferBytes + BitVec.ofNat 32 (bytes.length + 1) := by
    rw [← hr, BitVec.ofNat_add, ← BitVec.add_assoc]
    rfl
  have hresult : r.strm.wrResult = s.strm.wrResult := by rw [← hr]; rfl
  have hdev : r.dev = s.dev := by rw [← hr]; rfl
  refine ⟨_, hrun, by simp [← hr], by simp [← hr], by simp [← hr], fun hokay => ?okay, fun herror => ?error,
    by simp [← hr], by simp [← hr], by simp [← hr]⟩
  case okay =>
    rw [State.wrFinish_dev_okay r (hresult.trans hokay), hbytes,
      State.drawUsecs_congr s r (by rw [← hr]; rfl) (by rw [← hr]; rfl), State.bwSample_dev_congr _ _ r s hdev]
  case error => rw [State.wrFinish_dev_error r (by rwa [hresult]), hresult, hdev]

/-! ### Source and sink transfers (R261, R266, R268) -/

section
variable (s : State)

@[simp] theorem State.xferDone_cfg : s.xferDone.cfg = s.cfg := by
  obtain ⟨_, _, _, _, _, h⟩ := s.xferDone_spec
  rw [h]

@[simp] theorem State.xferDone_frm : s.xferDone.frm = { s.frm with mode := .idle } := by
  obtain ⟨_, _, _, _, _, h⟩ := s.xferDone_spec
  rw [h]

/-- Of the environment, the flush and what the sample uses. -/
theorem State.xferDone_env : ∃ (a : Answers) (n : Nat),
    s.xferDone.env = { s.env with tx := s.env.tx ++ [.flush], answers := a, draws := n } := by
  obtain ⟨_, _, a, n, _, h⟩ := s.xferDone_spec
  exact ⟨a, n, by rw [h]⟩

@[simp] theorem State.xferDone_tx : s.xferDone.env.tx = s.env.tx ++ [.flush] := by
  obtain ⟨_, _, h⟩ := s.xferDone_env
  rw [h]

@[simp] theorem State.xferDone_txPending : s.xferDone.env.txPending = s.env.txPending := by
  obtain ⟨_, _, h⟩ := s.xferDone_env
  rw [h]

@[simp] theorem State.xferDone_rxq : s.xferDone.env.rxq = s.env.rxq := by
  obtain ⟨_, _, h⟩ := s.xferDone_env
  rw [h]

@[simp] theorem State.xferDone_act : s.xferDone.env.act = s.env.act := by
  obtain ⟨_, _, h⟩ := s.xferDone_env
  rw [h]

end

/-- One byte of a transfer has moved. -/
def State.moved (s : State) : State :=
  { s with strm := { s.strm with xferLeft := s.strm.xferLeft - 1, xferBytes := s.strm.xferBytes + 1 } }

/-- The bytes moved and the bytes left add up to the same number after each byte. -/
theorem State.moved_total (s : State) :
    s.moved.strm.xferBytes + s.moved.strm.xferLeft = s.strm.xferBytes + s.strm.xferLeft := by
  simp only [State.moved]
  bv_omega

/-- The last byte leaves the transfer's sample, of the bytes moved and that byte. -/
theorem State.moved_xferDone_dev (s : State) (h : s.strm.xferLeft = 1) :
    s.moved.xferDone.dev = (s.bwSample (s.strm.xferBytes + s.strm.xferLeft) s.drawUsecs.1).dev := by
  rw [State.xferDone_dev, State.drawUsecs_congr s s.moved rfl rfl, State.bwSample_dev_congr _ _ s.moved s rfl, h]
  rfl

/-- With only engine turns to come, a step in `SINK` discards the next byte of `RXQ` (R121). -/
theorem step_of_sink_byte (b : Byte) (rest : List Byte) (s : State) (hq : s.quiet = true)
    (hm : s.frm.mode = .sink) (hrx : s.env.rxq = b :: rest) :
    step s = .next (s.withRxq rest).transferByte := by
  obtain ⟨hstep, hc⟩ := quiet_step s hq
  simp [hstep, engineStep, hc, hm, hrx, State.sinkByte, State.withRxq]

/-- The same sample is taken wherever in the transfer its bytes are added up. -/
theorem State.moved_sample_dev (s t : State) (hdev : t.dev = s.dev) (ha : t.env.answers.usecs = s.env.answers.usecs)
    (hd : t.env.draws = s.env.draws) (b : U32) :
    (t.bwSample b t.drawUsecs.1).dev = (s.bwSample b s.drawUsecs.1).dev := by
  rw [State.drawUsecs_congr s t ha hd, State.bwSample_dev_congr _ _ t s hdev]

/-- Settles O60: by induction over the bytes; the last of them ends the transfer. -/
theorem sinkSwallowsItsCount : Obligations.SinkSwallowsItsCount := by
  intro bytes rest
  induction bytes with
  | nil =>
    intro s _ _ hleft hcount _
    exact absurd (BitVec.eq_of_toNat_eq hcount.symm) hleft
  | cons b bytes ih =>
    intro s hm hq hleft hcount hrx
    rw [List.length_cons] at hcount
    rw [List.length_cons, runSteps_of_step _ s _ (step_of_sink_byte b (bytes ++ rest) s hq hm hrx)]
    by_cases hlast : s.strm.xferLeft = 1
    · obtain rfl : bytes = [] := List.length_eq_zero_iff.mp (by simpa [hlast] using hcount)
      rw [(s.withRxq ([] ++ rest)).transferByte_last hlast]
      refine ⟨(s.withRxq rest).moved.xferDone, rfl, ?_⟩
      rw [(s.withRxq rest).moved_xferDone_dev hlast, State.moved_sample_dev s (s.withRxq rest) rfl rfl rfl]
      simp [State.moved]
    · rw [(s.withRxq (bytes ++ rest)).transferByte_more hlast]
      have hleft' : s.strm.xferLeft - 1 ≠ 0 := by bv_omega
      have hcount' : bytes.length = (s.strm.xferLeft - 1).toNat := by bv_omega
      obtain ⟨t, hrun, hcfg, hfrm, hrxq, htx, hpending, hact, hdev⟩ :=
        ih (s.withRxq (bytes ++ rest)).moved hm hq hleft' hcount' rfl
      rw [State.moved_total, State.moved_sample_dev s (s.withRxq (bytes ++ rest)).moved rfl rfl rfl] at hdev
      exact ⟨t, hrun, hcfg, hfrm, hrxq, htx, hpending, hact, hdev⟩

/-- With only engine turns to come, a step in `SRC` sends a filler byte (R261). -/
theorem step_of_source_byte (s : State) (hq : s.quiet = true) (hm : s.frm.mode = .src) :
    step s = .next s.sourceByte := by
  obtain ⟨hstep, hc⟩ := quiet_step s hq
  simp [hstep, engineStep, hc, hm]

/-- The state once a filler byte is drawn and sent. -/
def State.filled (s : State) : State := (s.drawFiller.2).emit [s.drawFiller.1]

/-- A filler byte uses an answer if one is listed, and a free value otherwise. -/
theorem State.filled_eq (s : State) : s.filled = { s with env := { s.env with
    tx := s.env.tx ++ [.byte s.drawFiller.1]
    txPending := s.env.txPending ++ [s.drawFiller.1]
    answers := { s.env.answers with filler := s.env.answers.filler.tail }
    draws := s.env.draws + (1 - s.env.answers.filler.length) } } := by
  rw [State.filled, State.drawFiller_eq]
  rfl

/-- The microseconds drawn after `n` filler bytes. -/
def State.usecsAfter (n : Nat) (s : State) : U32 :=
  (State.drawUsecs { s with env := { s.env with draws := s.env.draws + (n - s.env.answers.filler.length) } }).1

/-- The filler byte that is sent is one of those that the draw comes after. -/
theorem State.usecsAfter_filled (n : Nat) (s t : State)
    (ht : t.env.answers = { s.env.answers with filler := s.env.answers.filler.tail })
    (hd : t.env.draws = s.env.draws + (1 - s.env.answers.filler.length)) :
    t.usecsAfter n = s.usecsAfter (n + 1) := by
  refine State.drawUsecs_congr _ _ (by simp [ht]) ?_
  simp only [ht, hd, List.length_tail]
  omega

/-- A transfer of `n` bytes, each of them drawn, and its end. -/
theorem runSteps_source (n : Nat) (s : State) (hm : s.frm.mode = .src) (hq : s.quiet = true)
    (hleft : s.strm.xferLeft ≠ 0) (hn : n = s.strm.xferLeft.toNat) :
    ∃ (t : State) (fillers : List Byte), runSteps n s = .next t ∧ t.cfg = s.cfg ∧ fillers.length = n ∧
      t.frm = { s.frm with mode := .idle } ∧ t.env.txPending = s.env.txPending ++ fillers ∧
      t.env.tx = s.env.tx ++ fillers.map .byte ++ [.flush] ∧ t.env.rxq = s.env.rxq ∧ t.env.act = s.env.act ∧
      t.dev = (s.bwSample (s.strm.xferBytes + s.strm.xferLeft) (s.usecsAfter n)).dev := by
  induction n generalizing s with
  | zero => exact absurd (BitVec.eq_of_toNat_eq hn.symm) hleft
  | succ n ih =>
    have hstep : step s = .next s.filled.transferByte := step_of_source_byte s hq hm
    have hfilled := s.filled_eq
    have hfleft : s.filled.strm.xferLeft = s.strm.xferLeft := by rw [hfilled]
    rw [runSteps_of_step _ s _ hstep]
    by_cases hlast : s.strm.xferLeft = 1
    · obtain rfl : n = 0 := by simpa [hlast] using hn
      rw [s.filled.transferByte_last (hfleft.trans hlast)]
      refine ⟨s.filled.moved.xferDone, [s.drawFiller.1], rfl, ?_⟩
      have hdraw : s.filled.drawUsecs.1 = s.usecsAfter 1 :=
        State.drawUsecs_congr _ _ (by rw [hfilled]) (by rw [hfilled])
      rw [s.filled.moved_xferDone_dev (hfleft.trans hlast), hdraw,
        State.bwSample_dev_congr _ _ s.filled s (by rw [hfilled])]
      simp [State.moved, hfilled]
    · rw [s.filled.transferByte_more (by rwa [hfleft])]
      obtain ⟨t, fillers, hrun, hcfg, hlen, hfrm, hpending, htx, hrxq, hact, hdev⟩ := ih s.filled.moved
        (by rw [hfilled]; exact hm) (by rw [hfilled]; exact hq) (by simp only [State.moved, hfleft]; bv_omega)
        (by simp only [State.moved, hfleft]; bv_omega)
      rw [State.moved_total, State.usecsAfter_filled n s s.filled.moved (by rw [hfilled]; rfl) (by rw [hfilled]; rfl),
        State.bwSample_dev_congr _ _ s.filled.moved s (by rw [hfilled]; rfl), hfilled] at hdev
      exact ⟨t, s.drawFiller.1 :: fillers, hrun, by simp [hcfg, State.moved, hfilled], by simp [hlen],
        by simp [hfrm, State.moved, hfilled], by simp [hpending, State.moved, hfilled],
        by simp [htx, State.moved, hfilled], by simp [hrxq, State.moved, hfilled],
        by simp [hact, State.moved, hfilled], hdev⟩

/-- Settles O59: the transfer of the count left. -/
theorem sourceSendsItsCount : Obligations.SourceSendsItsCount :=
  fun s hm hq hleft => runSteps_source s.strm.xferLeft.toNat s hm hq hleft rfl

end Sys2Proof.Machine
end

section
/-!
What one step can do, said once more, by its outcome: `EventEnds` for the collaborator's events (R228 to R247) and
`StepEnds` for the whole step. A claim over every step goes through these cases, the ends of a command
(`CommandEnds`) and of a token (`TokenEnds`) among them.
-/

namespace Sys2Proof.Machine

/-! ### The ends of an event -/

/-- What an event can do, with its cause: nothing, an element captured, the ends of a read stream, playback stopped and
the stream drained, and the ends of a write stream's tail. -/
inductive EventEnds (s : State) (e : Event) : State → Prop
  | ignored : EventEnds s e s
  | edge (n : Nat) (hm : s.frm.mode = .rdStream) : EventEnds s e (s.captureEdge n)
  | index (n : Nat) (hm : s.frm.mode = .rdStream) (hmore : s.strm.rdSeen + 1 ≠ s.strm.rdTarget) :
    EventEnds s e (s.captureIndex n)
  | readFails (c : AckCode) (hm : s.frm.mode = .rdStream) (hc : c = .fluxOverflow ∨ c = .noIndex)
    (hcause : (∃ n, e = .index n ∧ n > tickMax) ∨ (∃ n, e = .edge n ∧ (n = 0 ∨ n > tickMax)) ∨ e = .overrun ∨
      e = .noIndex) : EventEnds s e (s.rdEnd c)
  | readCompletes (n : Nat) (hm : s.frm.mode = .rdStream) (he : e = .index n)
    (hlast : s.strm.rdSeen + 1 = s.strm.rdTarget) : EventEnds s e ((s.captureIndex n).rdEnd .okay)
  | underrun (hm : s.frm.mode = .wrStream) (he : e = .underrun) (hrx : s.env.rxq = []) :
    EventEnds s e (((s.call .playStop).setWrResult .fluxUnderflow).setMode .wrDrain)
  | playStops (n : Nat) (hm : s.frm.mode = .wrStream) (he : e = .index n) (htai : s.strm.wrTai = true) :
    EventEnds s e ((s.call .playStop).setMode .wrDrain)
  | tailIndex (n : Nat) (hm : s.frm.mode = .wrTail) (he : e = .index n) : EventEnds s e (s.call .playStop).wrFinish
  | tailNoIndex (hm : s.frm.mode = .wrTail) (he : e = .noIndex) :
    EventEnds s e ((s.call .playStop).setWrResult .noIndex).wrFinish

theorem eventEnds_readEdge (n : Nat) (s : State) (hm : s.frm.mode = .rdStream) :
    EventEnds s (.edge n) (s.onEvent (.edge n)) := by
  by_cases hbad : n = 0 ∨ n > tickMax
  · rw [s.onEvent_edge_bad n hm hbad]
    exact .readFails _ hm (.inl rfl) (.inr (.inl ⟨n, rfl, hbad⟩))
  · rw [s.onEvent_edge n hm (by omega) (by omega)]
    exact .edge n hm

theorem eventEnds_readIndex (n : Nat) (s : State) (hm : s.frm.mode = .rdStream) :
    EventEnds s (.index n) (s.onEvent (.index n)) := by
  by_cases hbad : n > tickMax
  · rw [s.onEvent_index_bad n hm hbad]
    exact .readFails _ hm (.inl rfl) (.inl ⟨n, rfl, hbad⟩)
  · rw [s.onEvent_index n hm (Nat.not_lt.mp hbad)]
    split_ifs with hlast
    · exact .readCompletes n hm rfl hlast
    · exact .index n hm hlast

theorem eventEnds_writeIndex (n : Nat) (s : State) (hm : s.frm.mode = .wrStream) :
    EventEnds s (.index n) (s.onEvent (.index n)) := by
  rw [s.onEvent_writeIndex n hm]
  split_ifs with htai
  · exact .playStops n hm rfl htai
  · exact .ignored

/-- Every event in every mode: an event that the mode does not accept is ignored. -/
theorem eventEnds (e : Event) (s : State) : EventEnds s e (s.onEvent e) := by
  cases haccepts : accepts s.frm.mode s.env.rxq e with
  | false =>
    rw [s.onEvent_of_not_accepts e haccepts]
    exact .ignored
  | true =>
    cases e with
    | edge n => exact eventEnds_readEdge n s (of_decide_eq_true haccepts)
    | index n =>
      rcases of_decide_eq_true haccepts with hm | hm | hm
      · exact eventEnds_readIndex n s hm
      · exact eventEnds_writeIndex n s hm
      · rw [s.onEvent_tailIndex n hm]; exact .tailIndex n hm rfl
    | overrun =>
      have hm := of_decide_eq_true haccepts
      rw [s.onEvent_overrun hm]
      exact .readFails _ hm (.inl rfl) (.inr (.inr (.inl rfl)))
    | noIndex =>
      rcases of_decide_eq_true haccepts with hm | hm
      · rw [s.onEvent_readNoIndex hm]
        exact .readFails _ hm (.inr rfl) (.inr (.inr (.inr rfl)))
      · rw [s.onEvent_tailNoIndex hm]; exact .tailNoIndex hm rfl
    | underrun =>
      obtain ⟨hm, hrx⟩ := of_decide_eq_true haccepts
      rw [s.onEvent_underrun hm hrx]
      exact .underrun hm rfl hrx

/-! ### The ends of a step -/

/-- The same block with another environment: other queues, traces, turns and answers. -/
def State.withEnv (env : Env) (s : State) : State := { s with env := env }

section
variable (env : Env) (s : State)

@[simp] theorem State.withEnv_cfg : (s.withEnv env).cfg = s.cfg := rfl
@[simp] theorem State.withEnv_dev : (s.withEnv env).dev = s.dev := rfl
@[simp] theorem State.withEnv_frm : (s.withEnv env).frm = s.frm := rfl
@[simp] theorem State.withEnv_strm : (s.withEnv env).strm = s.strm := rfl
@[simp] theorem State.withEnv_env : (s.withEnv env).env = env := rfl

end

/-- What a step can do to the block, with what it takes: what has become of the environment is left open, but for the
queue that an event finds. -/
inductive StepEnds (s : State) : State → Prop
  | kept (env : Env) : StepEnds s (s.withEnv env)
  | service (env : Env) (h : s.servicesClear = true) : StepEnds s (s.withEnv env).clearComms
  | powerOn (env : Env) (h : s.powersOn = true) : StepEnds s (s.withEnv env).powerOn
  | latch (env : Env) (hf : s.fetched = some .ctrlClearComms) : StepEnds s ((s.withEnv env).setClearPending true)
  | held (env : Env) (b : Byte) (hm : s.frm.mode = .idle) (hinc : (s.accumulate b).frm.complete = none) :
    StepEnds s ((s.withEnv env).accumulate b)
  | refused (env : Env) (b : Byte) (hm : s.frm.mode = .idle) :
    StepEnds s ((((s.withEnv env).accumulate b).setRxCnt 0).refused .badCommand)
  | command (env : Env) (b : Byte) (i : Instr) {t : State} (hm : s.frm.mode = .idle) (hf : s.fetched = some i)
    (hp : isPacket i = true) (h : CommandEnds i (((s.withEnv env).accumulate b).setRxCnt 0) t) : StepEnds s t
  | inside (env : Env) (b : Byte) (hm : s.frm.mode = .wrStream) : StepEnds s ((s.withEnv env).decodeByte b)
  | token (env : Env) (b : Byte) (i : Instr) {t : State} (hm : s.frm.mode = .wrStream) (hf : s.fetched = some i)
    (hserve : s.servicesClear = false) (h : TokenEnds i ((s.withEnv env).decodeByte b) t) : StepEnds s t
  | event (env : Env) (e : Event) {t : State} (htaken : s.takenEvent = some e) (hserve : s.servicesClear = false)
    (hrx : env.rxq = s.env.rxq) (h : EventEnds (s.withEnv env) e t) : StepEnds s t
  | drained (env : Env) (hm : s.frm.mode = .wrDrain) : StepEnds s ((s.withEnv env).countBytes 1)
  | drainEnds (env : Env) (hm : s.frm.mode = .wrDrain) (hserve : s.servicesClear = false)
    (hb : s.takenByte .wrDrain = some 0) : StepEnds s ((s.withEnv env).countBytes 1).wrFinish
  | moves (env : Env) (hm : s.frm.mode = .src ∨ s.frm.mode = .sink) (hmore : s.strm.xferLeft ≠ 1) :
    StepEnds s (s.withEnv env).moved
  | transferEnds (env : Env) (hserve : s.servicesClear = false) (hlast : s.strm.xferLeft = 1)
    (htaken : (s.frm.mode = .src ∧ s.engineTurn ≠ none) ∨ (s.frm.mode = .sink ∧ ∃ b, s.takenByte .sink = some b)) :
    StepEnds s (s.withEnv env).moved.xferDone

/-- The byte that completes a packet fetches the packet's instruction. -/
theorem fetched_packet (s s1 : State) (b : Byte) (rest P : List Byte) (i : Instr)
    (hsched : ∀ v r, s.env.sched ≠ .ctrl v :: r) (hturn : s.engineTurn = some s1) (hm : s1.frm.mode = .idle)
    (hrx : s1.env.rxq = b :: rest) (hcomplete : (s1.accumulate b).frm.complete = some P)
    (hdecode : decodePacket P = .ok i) : s.fetched = some i := by
  unfold State.fetched
  split
  case h_1 v r hs => exact absurd hs (hsched v r)
  case h_2 => simp only [hturn, hm, hrx, hcomplete, Option.bind_some, hdecode, Decoded.toOption]

/-- The byte that completes a token fetches the token's instruction. -/
theorem fetched_token (s s1 : State) (b : Byte) (rest : List Byte) (i : Instr)
    (hsched : ∀ v r, s.env.sched ≠ .ctrl v :: r) (hturn : s.engineTurn = some s1) (hm : s1.frm.mode = .wrStream)
    (hrx : s1.env.rxq = b :: rest) (htoken : decToken s1.strm.dec b = some i) : s.fetched = some i := by
  unfold State.fetched
  split
  case h_1 v r hs => exact absurd hs (hsched v r)
  case h_2 => simp only [hturn, hm, hrx, htoken]

theorem takenByte_of_turn (s s1 : State) (m : Mode) (b : Byte) (rest : List Byte) (hturn : s.engineTurn = some s1)
    (hm : s1.frm.mode = m) (hrx : s1.env.rxq = b :: rest) : s.takenByte m = some b := by
  simp only [State.takenByte, hturn, if_pos hm, hrx, List.head?_cons]

theorem isPacket_of_decodePacket (P : List Byte) (i : Instr) (h : decodePacket P = .ok i) : isPacket i = true := by
  rw [isPacket, (encode_of_decodePacket P i h).1]

/-- A byte completes tokens only. -/
theorem isToken_of_decToken (p : DecPhase) (b : Byte) (i : Instr) (h : decToken p b = some i) : isToken i = true := by
  cases p with
  | tok =>
    simp only [decToken] at h
    split_ifs at h <;> cases h <;> rfl
  | med b0 => cases h; rfl
  | esc =>
    simp only [decToken] at h
    split_ifs at h
    cases h
    rfl
  | arg op k acc =>
    simp only [decToken] at h
    split_ifs at h
    cases h
    cases op <;> rfl

/-- A byte of a transfer moves, and the last one ends it. -/
theorem StepEnds.of_transfer (s : State) (env : Env) (hserve : s.servicesClear = false)
    (htaken : (s.frm.mode = .src ∧ s.engineTurn ≠ none) ∨ (s.frm.mode = .sink ∧ ∃ b, s.takenByte .sink = some b)) :
    StepEnds s (s.withEnv env).transferByte := by
  by_cases hlast : s.strm.xferLeft = 1
  · rw [(s.withEnv env).transferByte_last hlast]
    exact .transferEnds env hserve hlast htaken
  · rw [(s.withEnv env).transferByte_more hlast]
    exact .moves env (htaken.imp And.left And.left) hlast

theorem State.sourceByte_eq (s : State) : ∃ env, s.sourceByte = (s.withEnv env).transferByte :=
  ⟨_, congrArg State.transferByte s.filled_eq⟩

/-- The engine's own step, from the state that its turn leaves. -/
theorem stepEnds_of_engineStep (s t : State) (sc : List Turn) (hc : s.dev.clearPending = false)
    (hsched : ∀ v r, s.env.sched ≠ .ctrl v :: r) (hserve : s.servicesClear = false)
    (hturn : s.engineTurn = some (s.withTurns sc)) (h : engineStep (s.withTurns sc) = .next t) : StepEnds s t := by
  rcases engineStep_cases (s.withTurns sc) t hc h with ⟨hm, rfl⟩ | ⟨b, rest, hm, hrx, hinc, rfl⟩ |
    ⟨b, rest, P, hm, hrx, hcomplete, ⟨i, hdecode, hexec⟩ | ⟨-, rfl⟩⟩ | ⟨b, rest, hm, hrx, -, rfl⟩ |
    ⟨b, rest, i, hm, hrx, htoken, hexec⟩ | ⟨b, rest, hm, hrx, rfl⟩ | ⟨b, rest, hm, hrx, rfl⟩ | rfl
  · obtain ⟨env, hsource⟩ := (s.withTurns sc).sourceByte_eq
    rw [hsource]
    exact StepEnds.of_transfer s env hserve (.inl ⟨hm, by rw [hturn]; nofun⟩)
  · exact .held _ b hm hinc
  · exact .command _ b i hm (fetched_packet s _ b rest P i hsched hturn hm hrx hcomplete hdecode)
      (isPacket_of_decodePacket P i hdecode) (commandEnds i _ t (isPacket_of_decodePacket P i hdecode) hexec)
  · rw [State.raiseAck_eq]
    exact .refused _ b hm
  · exact .inside _ b hm
  · exact .token _ b i hm (fetched_token s _ b rest i hsched hturn hm hrx htoken) hserve
      (tokenEnds i _ t (isToken_of_decToken _ b i htoken) hexec)
  · by_cases hb : b = 0
    · subst hb
      exact .drainEnds _ hm hserve (takenByte_of_turn s _ _ 0 rest hturn hm hrx)
    · rw [State.drainByte_of_ne b _ hb]
      exact .drained _ hm
  · exact StepEnds.of_transfer s _ hserve (.inr ⟨hm, b, takenByte_of_turn s _ _ b rest hturn hm hrx⟩)
  · exact .kept _

/-- Every step of every agent. -/
theorem stepEnds (s t : State) (h : step s = .next t) : StepEnds s t := by
  rcases step_cases s t h with ⟨hserve, sc, rfl⟩ | ⟨hpower, sc, rfl⟩ | ⟨sc, q, p, rfl⟩ | ⟨v, sc, hs, hf, hexec⟩ |
    ⟨e, sc, hc, htaken, hserve, rfl⟩ | ⟨sc, hc, hsched, hserve, hturn, hstep⟩
  · exact .service _ hserve
  · exact .powerOn _ hpower
  · exact .kept _
  · by_cases hv : v = 10000
    · rw [decodeCtrl, if_pos hv] at hf hexec
      cases hexec
      exact .latch _ hf
    · rw [decodeCtrl, if_neg hv] at hexec
      cases hexec
      exact .kept _
  · exact .event { s.env with sched := sc } e htaken hserve rfl (eventEnds e _)
  · exact stepEnds_of_engineStep s t sc hc hsched hserve hturn hstep

end Sys2Proof.Machine
end

section
/-!
Which steps write which registers (R5, R20, R29 to R34, R53, R132): the configuration never, the latch by its two
writers, the status and the statistics by their ends, and the mode by the rows of R132's table. Each claim is read off
the ends of a step.
-/

namespace Sys2Proof.Machine

/-! ### The configuration (R5, R20) -/

theorem CommandEnds.cfg {i : Instr} {s t : State} (h : CommandEnds i s t) : t.cfg = s.cfg := by
  cases h <;> rfl

@[simp] theorem State.fluxBad_cfg (b : Byte) (s : State) : (s.fluxBad b).cfg = s.cfg := by
  obtain ⟨_, _, _, _, _, _, h⟩ := s.fluxBad_spec b
  rw [h]

theorem TokenEnds.cfg {i : Instr} {s t : State} (h : TokenEnds i s t) : t.cfg = s.cfg := by
  cases h <;> simp

theorem EventEnds.cfg {s t : State} {e : Event} (h : EventEnds s e t) : t.cfg = s.cfg := by
  cases h <;> simp [State.captureEdge, State.captureIndex]

theorem StepEnds.cfg {s t : State} (h : StepEnds s t) : t.cfg = s.cfg := by
  cases h with
  | service env => rw [State.clearComms_eq]; rfl
  | command env b i hm hf hp h => exact h.cfg
  | token env b i hm hf hserve h => exact h.cfg
  | event env e htaken hserve hrx h => exact h.cfg
  | drainEnds | transferEnds => simp [State.moved]
  | _ => rfl

/-- Settles O25: no end of a step touches it. -/
theorem configurationIsConstant : Obligations.ConfigurationIsConstant :=
  fun s t h => (stepEnds s t h).cfg

/-! ### The latch (R31, R276) -/

/-- Of all instructions, only the control channel's 10000 writes the latch. -/
theorem writesOnly_clearPending (i : Instr) (d e : Device) (hi : i ≠ .ctrlClearComms) (h : writesOnly i d e) :
    e.clearPending = d.clearPending := by
  cases i with
  | ctrlClearComms => exact absurd rfl hi
  | reset => exact h
  | _ =>
    simp only [writesOnly] at h
    rw [h]

theorem ne_clearComms_of_isPacket {i : Instr} (h : isPacket i = true) : i ≠ .ctrlClearComms := by
  rintro rfl
  cases h

theorem TokenEnds.clearPending {i : Instr} {s t : State} (h : TokenEnds i s t) :
    t.dev.clearPending = s.dev.clearPending := by
  cases h with
  | malformed b =>
    obtain ⟨_, _, _, _, _, _, heq⟩ := s.fluxBad_spec b
    rw [heq]
  | finishes =>
    obtain ⟨_, _, _, _, _, heq, _⟩ := (s.call .playEnd).wrFinish_spec
    rw [heq]
    rfl
  | _ => rfl

theorem State.wrFinish_clearPending (s : State) : s.wrFinish.dev.clearPending = s.dev.clearPending := by
  obtain ⟨_, _, _, _, _, heq, _⟩ := s.wrFinish_spec
  rw [heq]

theorem State.rdEnd_clearPending (c : AckCode) (s : State) : (s.rdEnd c).dev.clearPending = s.dev.clearPending := by
  obtain ⟨_, _, _, _, _, heq, _⟩ := s.rdEnd_spec c
  rw [heq]

theorem EventEnds.clearPending {s t : State} {e : Event} (h : EventEnds s e t) :
    t.dev.clearPending = s.dev.clearPending := by
  cases h with
  | readFails c => exact s.rdEnd_clearPending c
  | readCompletes n => exact (s.captureIndex n).rdEnd_clearPending .okay
  | tailIndex => exact (s.call .playStop).wrFinish_clearPending
  | tailNoIndex => exact ((s.call .playStop).setWrResult .noIndex).wrFinish_clearPending
  | _ => rfl

/-- A step keeps the latch, or is one of its writers. -/
theorem StepEnds.clearPending {s t : State} (h : StepEnds s t) :
    t.dev.clearPending = s.dev.clearPending ∨
    ((s.servicesClear = true ∨ s.powersOn = true) ∧ t.dev.clearPending = false) ∨
    (s.fetched = some .ctrlClearComms ∧ t.dev.clearPending = true) := by
  cases h with
  | service env h => exact .inr (.inl ⟨.inl h, by rw [State.clearComms_eq]⟩)
  | powerOn env h => exact .inr (.inl ⟨.inr h, rfl⟩)
  | latch env hf => exact .inr (.inr ⟨hf, rfl⟩)
  | command env b i hm hf hp h => exact .inl (writesOnly_clearPending i _ _ (ne_clearComms_of_isPacket hp) h.writesOnly)
  | token env b i hm hf hserve h => exact .inl h.clearPending
  | event env e htaken hserve hrx h => exact .inl h.clearPending
  | drainEnds env => exact .inl (State.wrFinish_clearPending _)
  | transferEnds env =>
    obtain ⟨_, _, _, _, _, heq⟩ := (s.withEnv env).moved.xferDone_spec
    exact .inl (by rw [heq]; rfl)
  | _ => exact .inl rfl

/-- Settles O24: a step that does not keep the latch is one of its writers. -/
theorem clearPendingWriters : Obligations.ClearPendingWriters := by
  intro s t h
  rcases (stepEnds s t h).clearPending with hkept | ⟨hwriter, hclear⟩ | ⟨hf, hset⟩
  · exact ⟨fun hs ht => by simp [hkept, hs] at ht, fun hs ht => by simp [hkept, hs] at ht⟩
  · exact ⟨fun _ _ => hwriter, fun _ ht => by simp [hclear] at ht⟩
  · exact ⟨fun _ ht => by simp [hset] at ht, fun _ _ => hf⟩

/-! ### The status and the statistics (R29, R34, R264) -/

/-- The status and the extrema are as they were. -/
def KeepsStatus (s t : State) : Prop :=
  t.dev.fluxStatus = s.dev.fluxStatus ∧ t.dev.bwMin = s.dev.bwMin ∧ t.dev.bwMax = s.dev.bwMax

/-- A flux stream ends: the mode is `IDLE`, and the extrema are kept unless the status is `OKAY`. -/
def EndsStream (s t : State) : Prop :=
  t.frm.mode = .idle ∧ (t.dev.fluxStatus ≠ .okay → t.dev.bwMin = s.dev.bwMin ∧ t.dev.bwMax = s.dev.bwMax)

theorem KeepsStatus.of_dev {s t : State} (h : t.dev = s.dev) : KeepsStatus s t := by
  rw [KeepsStatus, h]
  exact ⟨rfl, rfl, rfl⟩

theorem endsStream_wrFinish (s : State) : EndsStream s s.wrFinish := by
  obtain ⟨_, _, _, _, _, heq, hkept⟩ := s.wrFinish_spec
  rw [heq]
  exact ⟨rfl, hkept⟩

theorem endsStream_rdEnd (c : AckCode) (s : State) : EndsStream s (s.rdEnd c) := by
  obtain ⟨_, _, _, _, _, heq, hkept⟩ := s.rdEnd_spec c
  rw [heq]
  exact ⟨rfl, hkept⟩

/-- Of a packet's instructions, only CMD_RESET writes them. -/
theorem writesOnly_status (i : Instr) (d e : Device) (hp : isPacket i = true) (hi : i ≠ .reset)
    (h : writesOnly i d e) : e.fluxStatus = d.fluxStatus ∧ e.bwMin = d.bwMin ∧ e.bwMax = d.bwMax := by
  cases i with
  | reset => exact absurd rfl hi
  | fluxEos | fluxShort | fluxMed | fluxIndex | fluxLong | fluxReserved | ctrlNormal | ctrlClearComms => cases hp
  | _ =>
    simp only [writesOnly] at h
    rw [h]
    exact ⟨rfl, rfl, rfl⟩

theorem TokenEnds.status {i : Instr} {s t : State} (h : TokenEnds i s t) : KeepsStatus s t ∨ EndsStream s t := by
  cases h with
  | ignored | played | waits => exact .inl (.of_dev rfl)
  | malformed b =>
    by_cases hb : b = 0
    · subst hb
      exact .inr (endsStream_wrFinish ((s.call .playStop).setWrResult .badCommand))
    · rw [s.fluxBad_of_ne b hb]
      exact .inl (.of_dev rfl)
  | finishes => exact .inr (endsStream_wrFinish (s.call .playEnd))

/-- The modes of a flux stream. -/
def isStreamMode (m : Mode) : Prop := m = .rdStream ∨ m = .wrStream ∨ m = .wrDrain ∨ m = .wrTail

theorem EventEnds.status {s t : State} {e : Event} (h : EventEnds s e t) :
    KeepsStatus s t ∨ (isStreamMode s.frm.mode ∧ EndsStream s t) := by
  cases h with
  | ignored | underrun | playStops => exact .inl (.of_dev rfl)
  | edge n => exact .inl ⟨rfl, rfl, rfl⟩
  | index n => exact .inl ⟨rfl, rfl, rfl⟩
  | readFails c hm => exact .inr ⟨.inl hm, endsStream_rdEnd c s⟩
  | readCompletes n hm => exact .inr ⟨.inl hm, endsStream_rdEnd .okay (s.captureIndex n)⟩
  | tailIndex n hm => exact .inr ⟨.inr (.inr (.inr hm)), endsStream_wrFinish (s.call .playStop)⟩
  | tailNoIndex hm =>
    exact .inr ⟨.inr (.inr (.inr hm)), endsStream_wrFinish ((s.call .playStop).setWrResult .noIndex)⟩

/-- A step keeps the status and the extrema, or is a reset, or ends a flux stream, or ends a transfer, which keeps the
status. -/
theorem StepEnds.status {s t : State} (h : StepEnds s t) :
    KeepsStatus s t ∨ s.powersOn = true ∨ s.fetched = some .reset ∨
    (s.servicesClear = false ∧ isStreamMode s.frm.mode ∧ EndsStream s t) ∨
    (s.servicesClear = false ∧ (s.frm.mode = .src ∨ s.frm.mode = .sink) ∧ t.frm.mode = .idle ∧
      t.dev.fluxStatus = s.dev.fluxStatus) := by
  cases h with
  | service env => exact .inl (by rw [State.clearComms_eq]; exact ⟨rfl, rfl, rfl⟩)
  | powerOn env h => exact .inr (.inl h)
  | command env b i hm hf hp h =>
    by_cases hi : i = .reset
    · exact .inr (.inr (.inl (hi ▸ hf)))
    · exact .inl (writesOnly_status i _ _ hp hi h.writesOnly)
  | token env b i hm hf hserve h =>
    exact h.status.imp id fun hend => .inr (.inr (.inl ⟨hserve, .inr (.inl hm), hend⟩))
  | event env e htaken hserve hrx h =>
    exact h.status.imp id fun ⟨hm, hend⟩ => .inr (.inr (.inl ⟨hserve, hm, hend⟩))
  | drainEnds env hm hserve =>
    exact .inr (.inr (.inr (.inl ⟨hserve, .inr (.inr (.inl hm)), endsStream_wrFinish ((s.withEnv env).countBytes 1)⟩)))
  | transferEnds env hserve hlast htaken =>
    obtain ⟨_, _, _, _, _, heq⟩ := (s.withEnv env).moved.xferDone_spec
    exact .inr (.inr (.inr (.inr ⟨hserve, htaken.imp And.left And.left, by rw [heq], by rw [heq]; rfl⟩)))
  | _ => exact .inl ⟨rfl, rfl, rfl⟩

/-- Settles O22: a step that changes the status is a reset or the end of a flux stream. -/
theorem fluxStatusWriters : Obligations.FluxStatusWriters := by
  intro s t h hchange
  rcases (stepEnds s t h).status with hkept | hpower | hreset | ⟨hserve, hm, hend⟩ | ⟨-, -, -, hkept⟩
  · exact absurd hkept.1 hchange
  · exact .inl hpower
  · exact .inr (.inl hreset)
  · exact .inr (.inr ⟨hserve, hend.1, hm⟩)
  · exact absurd hkept hchange

/-- Settles O23: a step that changes the extrema is a reset, the end of a transfer, or of a stream with `OKAY`. -/
theorem bandwidthStatsWriters : Obligations.BandwidthStatsWriters := by
  intro s t h hchange
  rcases (stepEnds s t h).status with ⟨-, hmin, hmax⟩ | hpower | hreset | ⟨hserve, hm, hidle, hkept⟩ |
    ⟨hserve, hm, hidle, -⟩
  · exact absurd hchange (by simp [hmin, hmax])
  · exact .inl hpower
  · exact .inr (.inl hreset)
  · have hokay : t.dev.fluxStatus = .okay := by
      by_contra herror
      obtain ⟨hmin, hmax⟩ := hkept herror
      exact absurd hchange (by simp [hmin, hmax])
    have hne : s.frm.mode ≠ .idle := by rcases hm with hm | hm | hm | hm <;> rw [hm] <;> nofun
    exact .inr (.inr ⟨hserve, hidle, .inr (.inr ⟨hne, hokay⟩)⟩)
  · exact .inr (.inr ⟨hserve, hidle, hm.imp id .inl⟩)

/-! ### The mode (R132) -/

section
variable {s t : State}

/-- A row of R132's table from `IDLE`: the stream that the command starts. -/
theorem modeChange_of_starts {i : Instr} {c : Config} {dev : Device} {strm : Stream} {m : Mode}
    (hm : s.frm.mode = .idle) (hf : s.fetched = some i) (h : Starts i c dev strm m) :
    m = s.frm.mode ∨ ModeChange s m := by
  cases i with
  | readFlux n => obtain ⟨rfl, -⟩ := h; exact .inr (.inr (by rw [hm]; exact ⟨n, hf⟩))
  | writeFlux tai => obtain ⟨rfl, -⟩ := h; exact .inr (.inr (by rw [hm]; exact ⟨tai, hf⟩))
  | sourceBytes n =>
    obtain ⟨hmode, -⟩ := h
    split_ifs at hmode with hn
    · exact .inl (hmode.trans hm.symm)
    · subst hmode; exact .inr (.inr (by rw [hm]; exact ⟨n, hn, hf⟩))
  | sinkBytes n =>
    obtain ⟨hmode, -⟩ := h
    split_ifs at hmode with hn
    · exact .inl (hmode.trans hm.symm)
    · subst hmode; exact .inr (.inr (by rw [hm]; exact ⟨n, hn, hf⟩))
  | _ => exact h.elim

/-- The rows from `IDLE`: an answer and a refusal stay there. -/
theorem modeChange_of_command {i : Instr} {u : State} (hm : s.frm.mode = .idle) (hf : s.fetched = some i)
    (h : CommandEnds i u t) : t.frm.mode = s.frm.mode ∨ ModeChange s t.frm.mode := by
  cases h with
  | refused => exact .inl hm.symm
  | answered => exact .inl hm.symm
  | started dev strm made calls a n m hack hwrites hshape hstart => exact modeChange_of_starts hm hf hstart

/-- The rows from `WR_STREAM` whose cause is a token. -/
theorem modeChange_of_token {i : Instr} {u : State} (hm : s.frm.mode = .wrStream) (hf : s.fetched = some i)
    (hu : u.frm.mode = .wrStream) (htai : u.strm.wrTai = s.strm.wrTai) (h : TokenEnds i u t) :
    t.frm.mode = s.frm.mode ∨ ModeChange s t.frm.mode := by
  cases h with
  | ignored => exact .inl (hu.trans hm.symm)
  | played => exact .inl (hu.trans hm.symm)
  | malformed b hbad =>
    by_cases hb : b = 0
    · subst hb
      refine .inr (.inr ?_)
      rw [hm, State.fluxBad_zero, State.wrFinish_frm]
      exact .inr ⟨i, hf, hbad⟩
    · refine .inr (.inr ?_)
      rw [hm, u.fluxBad_of_ne b hb]
      exact .inl ⟨i, b, hf, hbad, hb⟩
  | waits hi hwait =>
    refine .inr (.inr ?_)
    rw [hm]
    exact ⟨hi ▸ hf, htai.symm.trans hwait⟩
  | finishes hi hwait =>
    refine .inr (.inr ?_)
    rw [hm, State.wrFinish_frm]
    exact .inl ⟨hi ▸ hf, htai.symm.trans hwait⟩

/-- The rows whose cause is an event. -/
theorem modeChange_of_event {e : Event} {u : State} (htaken : s.takenEvent = some e) (hfrm : u.frm = s.frm)
    (hstrm : u.strm = s.strm) (hrx : u.env.rxq = s.env.rxq) (h : EventEnds u e t) :
    t.frm.mode = s.frm.mode ∨ ModeChange s t.frm.mode := by
  cases h with
  | ignored | edge | index => exact .inl (congrArg Framer.mode hfrm)
  | readFails c hm hc hcause =>
    refine .inr (.inr ?_)
    rw [← hfrm, hm, State.rdEnd_frm]
    rcases hcause with ⟨n, rfl, hn⟩ | ⟨n, rfl, hn⟩ | rfl | rfl
    · exact .inl ⟨n, htaken, .inl hn⟩
    · exact .inr (.inl ⟨n, htaken, hn⟩)
    · exact .inr (.inr (.inl htaken))
    · exact .inr (.inr (.inr htaken))
  | readCompletes n hm he hlast =>
    refine .inr (.inr ?_)
    rw [← hfrm, hm, State.rdEnd_frm]
    exact .inl ⟨n, he ▸ htaken, .inr (hstrm ▸ hlast)⟩
  | underrun hm he hempty =>
    refine .inr (.inr ?_)
    rw [← hfrm, hm]
    exact .inr (.inl ⟨he ▸ htaken, hrx.symm.trans hempty⟩)
  | playStops n hm he htai =>
    refine .inr (.inr ?_)
    rw [← hfrm, hm]
    exact .inr (.inr ⟨n, he ▸ htaken, hstrm ▸ htai⟩)
  | tailIndex n hm he =>
    refine .inr (.inr ?_)
    rw [← hfrm, hm, State.wrFinish_frm]
    exact .inl ⟨n, he ▸ htaken⟩
  | tailNoIndex hm he =>
    refine .inr (.inr ?_)
    rw [← hfrm, hm, State.wrFinish_frm]
    exact .inr (he ▸ htaken)

end

/-- Settles O21: each end of a step keeps the mode or is a row of the table. -/
theorem modeChangesAreListed : Obligations.ModeChangesAreListed := by
  intro s t h
  cases stepEnds s t h with
  | service env hserve => exact .inr (.inl ⟨by rw [State.clearComms_eq], .inl hserve⟩)
  | powerOn env hpower => exact .inr (.inl ⟨rfl, .inr hpower⟩)
  | refused env b hm => exact .inl hm.symm
  | command env b i hm hf hp hend => exact modeChange_of_command hm hf hend
  | token env b i hm hf hserve hend =>
    exact modeChange_of_token (u := (s.withEnv env).decodeByte b) hm hf hm rfl hend
  | event env e htaken hserve hrx hend =>
    exact modeChange_of_event (u := s.withEnv env) htaken rfl rfl hrx hend
  | drainEnds env hm hserve hb =>
    refine .inr (.inr ?_)
    rw [hm, State.wrFinish_frm]
    exact hb
  | transferEnds env hserve hlast htaken =>
    refine .inr (.inr ?_)
    rw [State.xferDone_frm]
    rcases htaken with ⟨hm, hturn⟩ | ⟨hm, htaken⟩
    · rw [hm]; exact ⟨hlast, hturn⟩
    · rw [hm]; exact ⟨hlast, htaken⟩
  | _ => exact .inl rfl

end Sys2Proof.Machine
end

section
/-!
The invariant of the whole machine (R5, R22, R23, R29, R33 to R40, R269): it holds at reset, and every end of a step
keeps it. Its four parts are kept apart: the configuration, the device registers (`Device.Shape`), the framer
(`Framer.wf_iff`) and the registers of the stream (`streamOk`).
-/

namespace Sys2Proof.Machine

/-! ### The parts of the invariant -/

theorem State.inv_iff (s : State) : s.Inv = true ↔
    s.cfg.wf = true ∧ s.dev.Shape s.cfg ∧ s.frm.wf = true ∧ streamOk s = true := by
  simp only [State.Inv, Bool.and_eq_true, Device.wf_iff, and_assoc]

theorem Framer.wf_iff (f : Framer) : f.wf = true ↔ f.cbuf.length = 255 ∧ (f.mode = .idle ∨ f.rxCnt = 0) ∧
    (f.rxCnt < 2 ∨ (2 ≤ (f.cbuf.getD 1 0).toNat ∧ f.rxCnt < (f.cbuf.getD 1 0).toNat)) := by
  simp only [Framer.wf, Bool.and_eq_true, decide_eq_true_eq, and_assoc]

/-- At a packet boundary the framer is well formed in every mode. -/
theorem Framer.wf_of_boundary (f : Framer) (hsize : f.cbuf.length = 255) (hcnt : f.rxCnt = 0) : f.wf = true :=
  f.wf_iff.mpr ⟨hsize, .inr hcnt, .inl (by omega)⟩

/-- Outside `IDLE` the framer is at a packet boundary. -/
theorem Framer.boundary_of_wf {f : Framer} (h : f.wf = true) (hm : f.mode ≠ .idle) :
    f.cbuf.length = 255 ∧ f.rxCnt = 0 := by
  obtain ⟨hsize, hmode, -⟩ := f.wf_iff.mp h
  exact ⟨hsize, hmode.resolve_left hm⟩

/-- A stream mode's framer stays well formed when only the mode changes. -/
theorem Framer.wf_setMode {f : Framer} (m : Mode) (h : f.wf = true) (hm : f.mode ≠ .idle) :
    Framer.wf { f with mode := m } = true := by
  obtain ⟨hsize, hcnt⟩ := Framer.boundary_of_wf h hm
  exact Framer.wf_of_boundary _ hsize hcnt

theorem Framer.ne_idle {f : Framer} {m : Mode} (hm : f.mode = m) (hne : m ≠ .idle) : f.mode ≠ .idle := hm ▸ hne

/-- In `IDLE` no stream register is in use. -/
theorem streamOk_of_idle (s : State) (h : s.frm.mode = .idle) : streamOk s = true := by
  rw [streamOk, h]

theorem streamOk_wrStream (s : State) (h : s.frm.mode = .wrStream) :
    streamOk s = true ↔ s.strm.dec.wf = true ∧ s.strm.wrResult = .okay := by
  rw [streamOk, h]
  simp only [Bool.and_eq_true, decide_eq_true_eq]

theorem streamOk_wrDrain (s : State) (h : s.frm.mode = .wrDrain) : streamOk s = true ↔
    s.strm.wrResult = .okay ∨ s.strm.wrResult = .badCommand ∨ s.strm.wrResult = .fluxUnderflow := by
  rw [streamOk, h]
  simp only [decide_eq_true_eq]

theorem streamOk_wrTail (s : State) (h : s.frm.mode = .wrTail) : streamOk s = true ↔
    s.strm.wrResult = .okay ∧ s.strm.wrTai = true := by
  rw [streamOk, h]
  simp only [decide_eq_true_eq]

theorem streamOk_rdStream (s : State) (h : s.frm.mode = .rdStream) : streamOk s = true ↔
    s.strm.rdSeen.toNat < s.strm.rdTarget.toNat ∧ s.strm.rdTarget.toNat ≤ s.cfg.maxIndex.toNat ∧
      s.dev.capValid = false ∧ ∀ v ∈ s.dev.idxTime.drop s.strm.rdSeen.toNat, v = 0 := by
  rw [streamOk, h]
  simp only [Bool.and_eq_true, decide_eq_true_eq, List.all_eq_true, and_assoc]

theorem streamOk_transfer (s : State) (h : s.frm.mode = .src ∨ s.frm.mode = .sink) :
    streamOk s = true ↔ s.strm.xferLeft ≠ 0 := by
  rcases h with h | h <;> rw [streamOk, h] <;> simp only [decide_eq_true_eq]

/-! ### Reset -/

theorem Device.Shape.por (c : Config) (hc : c.wf = true) : (Device.por c).Shape c where
  sel := rfl
  motor := List.length_replicate
  cyl := List.length_replicate
  side := List.length_replicate
  pin := by simp [Device.por, Function.comp_def]
  delay := delayReset_length c hc
  idxTime := List.length_replicate
  status := rfl
  bw := rfl

theorem State.por_inv (c : Config) (hc : c.wf = true) : (State.por c).Inv = true :=
  (State.inv_iff _).mpr ⟨hc, Device.Shape.por c hc, Framer.por.wf_of_boundary List.length_replicate rfl, rfl⟩

/-- Settles O19: the reference configuration is a legal one. -/
theorem invHoldsAtReset : Obligations.InvHoldsAtReset :=
  ⟨State.por_inv Config.ref (by decide), State.por_inv⟩

/-! ### Ends of streams -/

section
variable {s : State}

theorem Device.Shape.bwSample (b u : U32) (h : s.dev.Shape s.cfg) : (s.bwSample b u).dev.Shape s.cfg := by
  have hok := s.bwSample_ok b u h.bw
  obtain ⟨mn, mx, heq⟩ := s.bwSample_spec b u
  rw [heq] at hok ⊢
  exact { h with bw := hok }

/-- The end of a write stream leaves a legal status, and keeps the statistics' invariant. -/
theorem Device.Shape.wrFinish (h : s.dev.Shape s.cfg) (hstatus : fluxStatusOk s.strm.wrResult = true) :
    s.wrFinish.dev.Shape s.cfg := by
  by_cases hokay : s.strm.wrResult = .okay
  · rw [s.wrFinish_dev_okay hokay]
    exact { h.bwSample s.strm.xferBytes s.drawUsecs.1 with status := rfl }
  · rw [s.wrFinish_dev_error hokay]
    exact { h with status := hstatus }

theorem Device.Shape.rdEnd (c : AckCode) (h : s.dev.Shape s.cfg) (hstatus : fluxStatusOk c = true) :
    (s.rdEnd c).dev.Shape s.cfg := by
  by_cases hokay : c = .okay
  · rw [hokay, s.rdEnd_okay_dev]
    exact { h.bwSample (s.strm.xferBytes + 1) s.drawUsecs.1 with status := rfl }
  · rw [s.rdEnd_dev_error c hokay]
    exact { h with status := hstatus }

theorem State.wrFinish_inv (hc : s.cfg.wf = true) (hdev : s.dev.Shape s.cfg) (hfrm : s.frm.wf = true)
    (hm : s.frm.mode ≠ .idle) (hstatus : fluxStatusOk s.strm.wrResult = true) : s.wrFinish.Inv = true := by
  rw [State.inv_iff, s.wrFinish_cfg]
  exact ⟨hc, hdev.wrFinish hstatus, by rw [s.wrFinish_frm]; exact Framer.wf_setMode .idle hfrm hm,
    streamOk_of_idle _ (by rw [s.wrFinish_frm])⟩

theorem State.rdEnd_inv (c : AckCode) (hc : s.cfg.wf = true) (hdev : s.dev.Shape s.cfg) (hfrm : s.frm.wf = true)
    (hm : s.frm.mode ≠ .idle) (hstatus : fluxStatusOk c = true) : (s.rdEnd c).Inv = true := by
  rw [State.inv_iff, s.rdEnd_cfg]
  exact ⟨hc, hdev.rdEnd c hstatus, by rw [s.rdEnd_frm]; exact Framer.wf_setMode .idle hfrm hm,
    streamOk_of_idle _ (by rw [s.rdEnd_frm])⟩

theorem State.clearComms_inv (hinv : s.Inv = true) : s.clearComms.Inv = true := by
  obtain ⟨hc, hdev, hfrm, -⟩ := s.inv_iff.mp hinv
  rw [State.clearComms_eq, State.inv_iff]
  exact ⟨hc, { hdev.withDefaults hc with }, Framer.wf_of_boundary _ (Framer.wf_iff _ |>.mp hfrm).1 rfl,
    streamOk_of_idle _ rfl⟩

/-! ### The framer's byte (R122, R123) -/

/-- What the framer has judged of bytes that are no packet yet. -/
theorem Framer.of_incomplete (f : Framer) (h : f.complete = none) :
    f.rxCnt < 2 ∨ (2 ≤ (f.cbuf.getD 1 0).toNat ∧ f.rxCnt ≠ (f.cbuf.getD 1 0).toNat) := by
  by_cases hshort : f.rxCnt < 2
  · exact .inl hshort
  · by_cases hlen : (f.cbuf.getD 1 0).toNat < 2
    · simp only [Framer.complete, if_neg hshort, if_pos hlen] at h
      cases h
    · refine .inr ⟨Nat.not_lt.mp hlen, fun hdone => ?_⟩
      simp only [Framer.complete, if_neg hshort, if_neg hlen, if_pos hdone] at h
      cases h

/-- A byte that completes no packet leaves an incomplete one. -/
theorem Framer.wf_held (b : Byte) (hm : s.frm.mode = .idle) (hwf : s.frm.wf = true)
    (hinc : (s.accumulate b).frm.complete = none) : (s.accumulate b).frm.wf = true := by
  obtain ⟨hsize, -, hcnt⟩ := s.frm.wf_iff.mp hwf
  refine (Framer.wf_iff _).mpr ⟨List.length_set.trans hsize, .inl hm, ?_⟩
  rcases Framer.of_incomplete _ hinc with hshort | ⟨hlen, hne⟩
  · exact .inl hshort
  · refine .inr ⟨hlen, ?_⟩
    simp only [State.accumulate_frm] at hlen hne ⊢
    by_cases hfirst : s.frm.rxCnt < 2
    · omega
    · have hkept : (s.frm.cbuf.set s.frm.rxCnt b).getD 1 0 = s.frm.cbuf.getD 1 0 := by
        simp [List.getD_eq_getElem?_getD, List.getElem?_set_ne (show s.frm.rxCnt ≠ 1 by omega)]
      rw [hkept] at hlen hne ⊢
      omega

/-! ### Commands, tokens and events -/

/-- A stream's registers, as its command starts it. -/
theorem streamOk_of_starts {i : Instr} {dev : Device} {strm : Stream} {calls : List ActCall} {m : Mode}
    (h : Starts i s.cfg dev strm m) : streamOk (s.started dev strm calls m) = true := by
  cases i with
  | readFlux n =>
    obtain ⟨rfl, hseen, hpos, hle, hcap, htimes⟩ := h
    refine (streamOk_rdStream _ rfl).mpr ⟨?_, hle, hcap, fun v hv => ?_⟩
    · simp only [State.started, hseen]
      bv_omega
    · simp only [State.started, htimes, hseen] at hv
      exact List.eq_of_mem_replicate (List.mem_of_mem_drop hv)
  | writeFlux tai =>
    obtain ⟨rfl, hdec, hresult⟩ := h
    exact (streamOk_wrStream _ rfl).mpr ⟨by simp only [State.started, hdec]; rfl, hresult⟩
  | sourceBytes n =>
    obtain ⟨rfl, hleft⟩ := h
    by_cases hn : n = 0
    · exact streamOk_of_idle _ (if_pos hn)
    · exact (streamOk_transfer _ (.inl (if_neg hn))).mpr (by simpa only [State.started, hleft] using hn)
  | sinkBytes n =>
    obtain ⟨rfl, hleft⟩ := h
    by_cases hn : n = 0
    · exact streamOk_of_idle _ (if_pos hn)
    · exact (streamOk_transfer _ (.inr (if_neg hn))).mpr (by simpa only [State.started, hleft] using hn)
  | _ => exact h.elim

/-- A command at a packet boundary. -/
theorem CommandEnds.inv {i : Instr} {t : State} (h : CommandEnds i s t) (hc : s.cfg.wf = true)
    (hdev : s.dev.Shape s.cfg) (hsize : s.frm.cbuf.length = 255) (hcnt : s.frm.rxCnt = 0) : t.Inv = true := by
  rw [State.inv_iff]
  cases h with
  | refused => exact ⟨hc, hdev, Framer.wf_of_boundary _ hsize rfl, streamOk_of_idle _ rfl⟩
  | answered dev made calls a n c payload hack hwrites hshape =>
    exact ⟨hc, hshape hc hdev, Framer.wf_of_boundary _ hsize hcnt, streamOk_of_idle _ rfl⟩
  | started dev strm made calls a n m hack hwrites hshape hstart =>
    exact ⟨hc, hshape hc hdev, Framer.wf_of_boundary _ hsize hcnt, streamOk_of_starts hstart⟩

/-- A token of a write stream, the decoder's phase advanced past it. -/
theorem TokenEnds.inv {i : Instr} {t : State} (h : TokenEnds i s t) (hm : s.frm.mode = .wrStream)
    (hinv : s.Inv = true) : t.Inv = true := by
  obtain ⟨hc, hdev, hfrm, hstrm⟩ := s.inv_iff.mp hinv
  obtain ⟨hdec, hresult⟩ := (streamOk_wrStream s hm).mp hstrm
  have hne := Framer.ne_idle hm nofun
  cases h with
  | ignored => exact hinv
  | played => exact hinv
  | malformed b =>
    by_cases hb : b = 0
    · subst hb
      exact State.wrFinish_inv (s := (s.call .playStop).setWrResult .badCommand) hc hdev hfrm hne rfl
    · rw [s.fluxBad_of_ne b hb, State.inv_iff]
      exact ⟨hc, hdev, Framer.wf_setMode .wrDrain hfrm hne, (streamOk_wrDrain _ rfl).mpr (.inr (.inl rfl))⟩
  | waits hi htai =>
    exact (State.inv_iff _).mpr ⟨hc, hdev, Framer.wf_setMode .wrTail hfrm hne,
      (streamOk_wrTail _ rfl).mpr ⟨hresult, htai⟩⟩
  | finishes hi htai =>
    exact State.wrFinish_inv (s := s.call .playEnd) hc hdev hfrm hne (by rw [State.call_strm, hresult]; rfl)

/-- An index pulse that is not the last is stored at the next entry, so those after it are still zero. -/
theorem State.captureIndex_inv (n : Nat) (hm : s.frm.mode = .rdStream) (hinv : s.Inv = true)
    (hmore : s.strm.rdSeen + 1 ≠ s.strm.rdTarget) : (s.captureIndex n).Inv = true := by
  obtain ⟨hc, hdev, hfrm, hstrm⟩ := s.inv_iff.mp hinv
  obtain ⟨hlt, hle, hcap, hzero⟩ := (streamOk_rdStream s hm).mp hstrm
  have htarget := s.strm.rdTarget.isLt
  have hseen : (s.strm.rdSeen + 1).toNat = s.strm.rdSeen.toNat + 1 := by bv_omega
  refine (State.inv_iff _).mpr ⟨hc, { hdev with idxTime := List.length_set.trans hdev.idxTime }, hfrm,
    (streamOk_rdStream (s.captureIndex n) hm).mpr ⟨?_, hle, hcap, fun v hv => hzero v ?_⟩⟩
  · simp only [State.captureIndex, hseen]
    bv_omega
  · simp only [State.captureIndex, hseen, List.drop_set_of_lt (Nat.lt_add_one _)] at hv
    rw [← List.drop_drop] at hv
    exact List.mem_of_mem_drop hv

theorem EventEnds.inv {t : State} {e : Event} (h : EventEnds s e t) (hinv : s.Inv = true) : t.Inv = true := by
  obtain ⟨hc, hdev, hfrm, hstrm⟩ := s.inv_iff.mp hinv
  cases h with
  | ignored => exact hinv
  | edge n hm => exact hinv
  | index n hm hmore => exact State.captureIndex_inv n hm hinv hmore
  | readFails c hm hc' =>
    exact State.rdEnd_inv c hc hdev hfrm (Framer.ne_idle hm nofun) (by rcases hc' with rfl | rfl <;> rfl)
  | readCompletes n hm =>
    exact State.rdEnd_inv (s := s.captureIndex n) .okay hc { hdev with idxTime := List.length_set.trans hdev.idxTime }
      hfrm (Framer.ne_idle hm nofun) rfl
  | underrun hm =>
    exact (State.inv_iff _).mpr ⟨hc, hdev, Framer.wf_setMode .wrDrain hfrm (Framer.ne_idle hm nofun),
      (streamOk_wrDrain _ rfl).mpr (.inr (.inr rfl))⟩
  | playStops n hm =>
    obtain ⟨-, hresult⟩ := (streamOk_wrStream s hm).mp hstrm
    exact (State.inv_iff _).mpr ⟨hc, hdev, Framer.wf_setMode .wrDrain hfrm (Framer.ne_idle hm nofun),
      (streamOk_wrDrain _ rfl).mpr (.inl hresult)⟩
  | tailIndex n hm =>
    obtain ⟨hresult, -⟩ := (streamOk_wrTail s hm).mp hstrm
    exact State.wrFinish_inv (s := s.call .playStop) hc hdev hfrm (Framer.ne_idle hm nofun)
      (by rw [State.call_strm, hresult]; rfl)
  | tailNoIndex hm =>
    exact State.wrFinish_inv (s := (s.call .playStop).setWrResult .noIndex) hc hdev hfrm
      (Framer.ne_idle hm nofun) rfl

/-- The end of a transfer. -/
theorem State.moved_xferDone_inv (hm : s.frm.mode ≠ .idle) (hinv : s.Inv = true) : s.moved.xferDone.Inv = true := by
  obtain ⟨hc, hdev, hfrm, -⟩ := s.inv_iff.mp hinv
  rw [State.inv_iff, State.xferDone_cfg, State.xferDone_frm, State.xferDone_dev]
  exact ⟨hc, Device.Shape.bwSample (s := s.moved) _ _ hdev, Framer.wf_setMode .idle hfrm hm,
    streamOk_of_idle _ (by rw [State.xferDone_frm])⟩

end

/-- Settles O20: each end of a step keeps the four parts. -/
theorem everyStepKeepsInv : Obligations.EveryStepKeepsInv := by
  intro s t hinv h
  obtain ⟨hc, hdev, hfrm, hstrm⟩ := s.inv_iff.mp hinv
  have hsize : s.frm.cbuf.length = 255 := (s.frm.wf_iff.mp hfrm).1
  cases stepEnds s t h with
  | kept env => exact hinv
  | service env hserve => exact State.clearComms_inv (s := s.withEnv env) hinv
  | powerOn env hpower => exact State.por_inv s.cfg hc
  | latch env hf => exact (State.inv_iff _).mpr ⟨hc, { hdev with }, hfrm, hstrm⟩
  | held env b hm hinc =>
    exact (State.inv_iff _).mpr ⟨hc, hdev, Framer.wf_held b hm hfrm hinc, streamOk_of_idle _ hm⟩
  | refused env b hm =>
    exact (State.inv_iff _).mpr ⟨hc, hdev, Framer.wf_of_boundary _ (List.length_set.trans hsize) rfl,
      streamOk_of_idle _ rfl⟩
  | command env b i hm hf hp hend => exact hend.inv hc hdev (List.length_set.trans hsize) rfl
  | inside env b hm =>
    obtain ⟨hdec, hresult⟩ := (streamOk_wrStream s hm).mp hstrm
    exact (State.inv_iff _).mpr ⟨hc, hdev, hfrm,
      (streamOk_wrStream ((s.withEnv env).decodeByte b) hm).mpr ⟨decStep_wf _ b hdec, hresult⟩⟩
  | token env b i hm hf hserve hend =>
    obtain ⟨hdec, hresult⟩ := (streamOk_wrStream s hm).mp hstrm
    exact hend.inv hm ((State.inv_iff _).mpr ⟨hc, hdev, hfrm,
      (streamOk_wrStream ((s.withEnv env).decodeByte b) hm).mpr ⟨decStep_wf _ b hdec, hresult⟩⟩)
  | event env e htaken hserve hrx hend => exact hend.inv hinv
  | drained env hm =>
    exact (State.inv_iff _).mpr ⟨hc, hdev, hfrm, hstrm⟩
  | drainEnds env hm hserve hb =>
    have hstatus : fluxStatusOk s.strm.wrResult = true := by
      rcases (streamOk_wrDrain s hm).mp hstrm with hresult | hresult | hresult <;> rw [hresult] <;> rfl
    exact State.wrFinish_inv (s := (s.withEnv env).countBytes 1) hc hdev hfrm
      (Framer.ne_idle hm nofun) hstatus
  | moves env hm hmore =>
    refine (State.inv_iff _).mpr ⟨hc, hdev, hfrm, (streamOk_transfer (s.withEnv env).moved hm).mpr ?_⟩
    have hleft := (streamOk_transfer s hm).mp hstrm
    simp only [State.moved, State.withEnv_strm]
    bv_omega
  | transferEnds env hserve hlast htaken =>
    have hne : s.frm.mode ≠ .idle := htaken.elim (fun h => Framer.ne_idle h.1 nofun) (fun h => Framer.ne_idle h.1 nofun)
    exact State.moved_xferDone_inv (s := s.withEnv env) hne hinv

end Sys2Proof.Machine
end
